-- ==== Sys2Proof/Word.lean ====
section
/-! DEFINITION. Word.lean: the widths of the block's values, under the names the spec gives them
(00_scope.md R6, R8, R11; 30_encoding.md R60). Every value of the block is unsigned and bit 0 is its
least significant bit (R8). -/

namespace Sys2Proof

/-- A command, response or STATUS word: `CMD_W`, `RESP_W`, `STATUS_W` = 32 bits (R6, R60, R66, R67). -/
abbrev PortWord := BitVec 32

/-- An input byte of the encoder, or one output item of a response (R54, R66). -/
abbrev Byte := BitVec 8

/-- The 7-bit code of a symbol, and the width of both ROMs' entries (R11 "Symbol", R40). -/
abbrev Code := BitVec 7

/-- A 21-bit code-point operand, `CP_W` (R6, R63 (b)). -/
abbrev CodePoint := BitVec 21

/-- A 13-bit word of the bit stream, `WORD_BITS` (R3, R11 "Word"). -/
abbrev StreamWord := BitVec 13

/-- A base-91 digit, an index 0 to 90 of the alphabet (R11 "Digit"). -/
abbrev Digit := Fin 91

/-- A digit as the 7 bits the registers and the reverse table hold (R11 "Digit", R24, R45). -/
def Digit.bits (d : Digit) : Code := BitVec.ofNat 7 d.val

end Sys2Proof
end

