-- ==== Sys2Proof/Config.lean ====
section
/-! DEFINITION. Config.lean: the block's fixed constants and its parameters (00_scope.md R6), with the
alphabet `ALPHA` as the one parameter a rule reads (20_memory.md R41 to R44). The ROM contents are
configuration, not state (10_state.md R20). -/

namespace Sys2Proof

/-! ## The fixed constants of R6 -/

/-- `BASE`. -/
@[simp] abbrev Config.base : Nat := 91
/-- `WORD_BITS`. -/
@[simp] abbrev Config.wordBits : Nat := 13
/-- `WORD_MASK`, the largest 13-bit word. -/
@[simp] abbrev Config.wordMask : Nat := 8191
/-- `BYTE_BITS`. -/
@[simp] abbrev Config.byteBits : Nat := 8
/-- `FLUSH_MIN`, the fewest leftover bits for which ENC_END emits a second symbol. -/
@[simp] abbrev Config.flushMin : Nat := 7
/-- `LONE_BITS`, what a lone final digit counts for in DEC_END. -/
@[simp] abbrev Config.loneBits : Nat := 7
/-- `SENTINEL`, the reverse table's "not a symbol" (R45). -/
@[simp] abbrev Config.sentinel : Code := 0x7F#7

/-! ## The alphabet parameter -/

/-- R41: the candidate codes: printable ASCII (0x21 to 0x7E) other than 0x27 and 0x5C. -/
def isCandidate (c : Code) : Bool :=
  decide (0x21 ≤ c.toNat) && decide (c.toNat ≤ 0x7E) && c != 0x27#7 && c != 0x5C#7

/-- R42: the twenty-eight entries that the source's encode vector fixes in every conforming `ALPHA`:
index 0 is 0x21, indices 5 to 30 are 0x7A down to 0x61, index 43 is 0x54. -/
def pinnedCode (i : Digit) : Option Code :=
  if i.val = 0 then some 0x21#7
  else if 5 ≤ i.val ∧ i.val ≤ 30 then some (BitVec.ofNat 7 (0x7F - i.val))
  else if i.val = 43 then some 0x54#7
  else none

/-- R44: the entries of `ALPHA_DEFAULT`. -/
def alphaDefaultCode (i : Digit) : Code :=
  if i.val = 0 then 0x21#7
  else if i.val = 35 then 0x22#7
  else if i.val = 88 then 0x23#7
  else 0x7F#7 ^^^ BitVec.ofNat 7 i.val

/-- The index of a code of `ALPHA_DEFAULT` (the reverse table printed under R45); used only to show that
the default's entries are distinct. -/
def alphaDefaultIndex (c : Code) : Nat :=
  if c = 0x21#7 then 0
  else if c = 0x22#7 then 35
  else if c = 0x23#7 then 88
  else (0x7F#7 ^^^ c).toNat

theorem alphaDefaultIndex_code : ∀ i : Digit, alphaDefaultIndex (alphaDefaultCode i) = i.val := by
  decide

theorem alphaDefaultCode_distinct (i j : Digit) (h : alphaDefaultCode i = alphaDefaultCode j) :
    i = j := by
  apply Fin.ext
  rw [← alphaDefaultIndex_code i, ← alphaDefaultIndex_code j, h]

theorem alphaDefaultCode_candidate : ∀ i : Digit, isCandidate (alphaDefaultCode i) = true := by
  decide

theorem alphaDefaultCode_pinned :
    ∀ (i : Digit) (c : Code), pinnedCode i = some c → alphaDefaultCode i = c := by
  decide

/-- A conforming alphabet (R41, R42, R43): 91 seven-bit codes, pairwise distinct, each a candidate, with
the twenty-eight pinned entries. `REV` is derived from it (R45), so R43 (b) and (c) need no field, and
R43 (a) follows from R41 and R42. A field left out takes `ALPHA_DEFAULT`'s (R44). -/
structure Alphabet where
  /-- `ALPHA[i]`. -/
  code : Digit → Code := alphaDefaultCode
  /-- R41: the entries are pairwise distinct. -/
  distinct : ∀ i j : Digit, code i = code j → i = j := by exact alphaDefaultCode_distinct
  /-- R41: every entry is a candidate code. -/
  candidate : ∀ i : Digit, isCandidate (code i) = true := by exact alphaDefaultCode_candidate
  /-- R42: the pinned entries. -/
  pinned : ∀ (i : Digit) (c : Code), pinnedCode i = some c → code i = c := by
    exact alphaDefaultCode_pinned
deriving Inhabited

/-- R44: `ALPHA_DEFAULT`, one instance of the parameter and not the hardware's value (I1). -/
def Alphabet.default : Alphabet where

/-- R6, D9, D10: `ALPHA`, a free parameter of the model: SOME conforming alphabet. Nothing in Lean can
evaluate it, so a theorem about the machine holds for every conforming alphabet (log entry 1). -/
opaque Config.alpha : Alphabet

/-! ## The timing parameter -/

/-- R6, R161: how many clock cycles beyond the first a command takes: free (log entry 8). -/
opaque Config.extraLatency : Nat

/-- R6, R161: `CMD_LATENCY`, at least 1 clock cycle. No rule depends on it and nothing reads it. -/
def Config.cmdLatency : Nat := Config.extraLatency + 1

end Sys2Proof
end

