-- ==== Sys2Proof/Machine/Datapath.lean ====
section
/-! DEFINITION. Machine/Datapath.lean: the digit pair mapper and the accumulator primitives (40_datapath.md R80 to
R86). They hold no state and none of them can fail (R86). The bit count inside a command is a natural
number; the register it is stored in is `BCNT` (log entry 10). -/

namespace Sys2Proof.Machine

/-! ## The digit pair mapper -/

/-- R80, `Split(w)`: the low digit `w mod 91` and the high digit `w div 91`. -/
def split (w : StreamWord) : Digit × Digit :=
  (⟨w.toNat % 91, Nat.mod_lt _ (by decide)⟩,
   ⟨w.toNat / 91, by have := w.isLt; omega⟩)

/-- R81, `Combine(lo, hi)`: the word `91 * hi + lo`, or none for OVERFLOW, when it is above 8191. -/
def combine (lo hi : Nat) : Option StreamWord :=
  if Config.base * hi + lo ≤ Config.wordMask then some (BitVec.ofNat 13 (Config.base * hi + lo)) else none

/-! ## The accumulator primitives -/

/-- The pending bits during a command: the locals `acc` and `b` of the pseudocode (R9). -/
structure Accum where
  /-- The bits, oldest in bit 0. -/
  acc : BitVec 21
  /-- How many of them are valid. -/
  count : Nat
deriving DecidableEq, Repr

/-- R83, `Ins(acc, b, v, k)`: append the `k`-bit value `v` above the valid bits. -/
def Accum.ins (a : Accum) (v : BitVec 21) (k : Nat) : Accum where
  acc := a.acc ||| (v <<< a.count)
  count := a.count + k

/-- R84, `Ext(acc, b, k)`, its first result: the `k` oldest bits. -/
def Accum.low (a : Accum) (k : Nat) : BitVec k := a.acc.extractLsb' 0 k

/-- R84, `Ext(acc, b, k)`, its other results: the accumulator and the count without those bits. -/
def Accum.drop (a : Accum) (k : Nat) : Accum where
  acc := a.acc >>> k
  count := a.count - k

/-- R100, `while b >= 13`: the words taken out, oldest first, and what is left. The first argument bounds
the rounds. -/
def drainWords : Nat → Accum → List StreamWord × Accum
  | 0, a => ([], a)
  | rounds + 1, a =>
    if Config.wordBits ≤ a.count then
      let rest := drainWords rounds (a.drop 13)
      (a.low 13 :: rest.1, rest.2)
    else ([], a)

/-- R110, `while b >= 8`: the bytes taken out, oldest first, and what is left. The first argument bounds
the rounds. -/
def drainBytes : Nat → Accum → List Byte × Accum
  | 0, a => ([], a)
  | rounds + 1, a =>
    if Config.byteBits ≤ a.count then
      let rest := drainBytes rounds (a.drop 8)
      (a.low 8 :: rest.1, rest.2)
    else ([], a)

end Sys2Proof.Machine
end

