-- ==== Sys2Proof/Syntax.lean ====
section
/-! DEFINITION. Syntax.lean: the nine commands of the block (30_encoding.md R61), one constructor per row of
spec/opcode_table.json, each with the operand R63 gives it. A command plays the role of an
instruction (R11 "Command"). -/

namespace Sys2Proof

/-- A command of the block (R61). No operand names a register; immediates are the only form (R63). -/
inductive Instr where
  /-- NOP (R93). -/
  | nop
  /-- START_ENC (R91). -/
  | startEnc
  /-- START_DEC (R92). -/
  | startDec
  /-- ENC_BYTE with its byte operand `n` (R100, R63 (a)). -/
  | encByte (n : Byte)
  /-- ENC_END (R102). -/
  | encEnd
  /-- DEC_SYM with its code-point operand (R110, R63 (b)). -/
  | decSym (cp : CodePoint)
  /-- DEC_END (R113). -/
  | decEnd
  /-- ALPHA_RD with its 7-bit index operand (R120, R63 (c)). -/
  | alphaRd (idx : BitVec 7)
  /-- REV_RD with its code-point operand (R121, R63 (b)). -/
  | revRd (cp : CodePoint)
deriving DecidableEq, Repr

end Sys2Proof
end

