-- ==== Sys2Proof/WellFormed.lean ====
section
/-! DEFINITION. WellFormed.lean: which commands have a legal word (30_encoding.md R62, R64 (a)). The only
value constraint of the table is ALPHA_RD's: its index is at most 90. -/

namespace Sys2Proof

/-- R62, column "value constraint": ALPHA_RD needs `idx <= 90`; no other command constrains its operand. -/
def Instr.wellFormed : Instr → Bool
  | .nop => true
  | .startEnc => true
  | .startDec => true
  | .encByte _ => true
  | .encEnd => true
  | .decSym _ => true
  | .decEnd => true
  | .alphaRd idx => decide (idx.toNat ≤ 90)
  | .revRd _ => true

/-- The command has a legal word. -/
abbrev Instr.WellFormed (i : Instr) : Prop := i.wellFormed = true

end Sys2Proof
end

