-- ==== Sys2Proof/Decode.lean ====
section
/-! DEFINITION. Decode.lean: the decoder of command words, total and rejecting by name (30_encoding.md R60 to
R65; the order of the checks is 60_exceptions.md R132's), and after it the encoder, written from R61
and R62. A command is one 32-bit port word and no byte order applies to it (20_memory.md R53). -/

namespace Sys2Proof

/-! ## The fields of a command word (R60) -/

/-- `OP`, bits 31:28. -/
def opField (w : PortWord) : BitVec 4 := w.extractLsb' 28 4
/-- `RSV`, bits 27:21. -/
def rsvField (w : PortWord) : BitVec 7 := w.extractLsb' 21 7
/-- `ARG`, bits 20:0. -/
def argField (w : PortWord) : BitVec 21 := w.extractLsb' 0 21

/-! ## Decoding -/

/-- Why a word is no command (R64 (b), (c)). -/
inductive DecodeError where
  /-- `OP` is 0x9 to 0xF (R64 (b)). -/
  | illegalOpcode
  /-- A must-be-zero bit is set, or ALPHA_RD's index is 91 to 127 (R64 (c)). -/
  | reservedOperand
deriving DecidableEq, Repr

/-- A command without an operand: all of `ARG` must be zero (R62). -/
def decodeBare (i : Instr) (arg : BitVec 21) : Except DecodeError Instr :=
  if arg = 0 then .ok i else .error .reservedOperand

/-- ENC_BYTE: `ARG[20:8]` must be zero, the byte is `ARG[7:0]` (R62, R63 (a)). -/
def decodeEncByte (arg : BitVec 21) : Except DecodeError Instr :=
  if arg.extractLsb' 8 13 = 0 then .ok (.encByte (arg.extractLsb' 0 8)) else .error .reservedOperand

/-- ALPHA_RD: `ARG[20:7]` must be zero and the index `ARG[6:0]` at most 90 (R62, R63 (c), R132). -/
def decodeAlphaRd (arg : BitVec 21) : Except DecodeError Instr :=
  if arg.extractLsb' 7 14 = 0 ∧ (arg.extractLsb' 0 7).toNat ≤ 90 then
    .ok (.alphaRd (arg.extractLsb' 0 7))
  else .error .reservedOperand

/-- The operand check and the command of opcode `op` (R61, R62); opcodes 0x9 to 0xF are reserved. -/
def decodeOperand (op : Nat) (arg : BitVec 21) : Except DecodeError Instr :=
  match op with
  | 0x0 => decodeBare .nop arg
  | 0x1 => decodeBare .startEnc arg
  | 0x2 => decodeBare .startDec arg
  | 0x3 => decodeEncByte arg
  | 0x4 => decodeBare .encEnd arg
  | 0x5 => .ok (.decSym arg)
  | 0x6 => decodeBare .decEnd arg
  | 0x7 => decodeAlphaRd arg
  | 0x8 => .ok (.revRd arg)
  | _ => .error .illegalOpcode

/-- R65, R132: read `OP` first, then check `RSV`, then `ARG`. `MODE` has no part in it (R65). -/
def decode (w : PortWord) : Except DecodeError Instr :=
  if 0x9 ≤ (opField w).toNat then .error .illegalOpcode
  else if rsvField w ≠ 0 then .error .reservedOperand
  else decodeOperand (opField w).toNat (argField w)

/-! ## Encoding -/

/-- The opcode number of each command (R61). -/
def Instr.opcode : Instr → BitVec 4
  | .nop => 0x0#4
  | .startEnc => 0x1#4
  | .startDec => 0x2#4
  | .encByte _ => 0x3#4
  | .encEnd => 0x4#4
  | .decSym _ => 0x5#4
  | .decEnd => 0x6#4
  | .alphaRd _ => 0x7#4
  | .revRd _ => 0x8#4

/-- The `ARG` field of each command: its operand zero-extended to 21 bits, or zero (R62, R63). -/
def Instr.argument : Instr → BitVec 21
  | .nop => 0
  | .startEnc => 0
  | .startDec => 0
  | .encByte n => n.setWidth 21
  | .encEnd => 0
  | .decSym cp => cp
  | .decEnd => 0
  | .alphaRd idx => idx.setWidth 21
  | .revRd cp => cp

/-- R60, R62: the word of a command: `OP` in bits 31:28, `RSV` zero, `ARG` in bits 20:0. -/
def encode (i : Instr) : PortWord := i.opcode ++ 0#7 ++ i.argument

/-! ## The opcode table's numbering -/

/-- A row's bits as one port word: bit 0 of the table is bit 0 of the word, bits above `nbits` are zero. -/
def tableWord (nbits w : Nat) : PortWord := BitVec.ofNat 32 (w % 2 ^ nbits)

/-- What the decoder reads from an instruction of the opcode table. Every command is one 32-bit word
(R65), so nothing longer decodes. -/
def decodeTableWord (nbits w : Nat) : Option Instr :=
  if nbits ≤ 32 then
    match decode (tableWord nbits w) with
    | .ok i => some i
    | .error _ => none
  else none

end Sys2Proof
end

