-- ==== Sys2Proof/Machine/State.lean ====
section
/-! DEFINITION. Machine/State.lean: the state of one instance of the block as plain data (10_state.md R20 to R27,
70_reset_and_hazards.md R150, R158), its stops, and the state after reset. The block has no program
counter, register file, data memory or instruction memory (R21, R35, R40). -/

namespace Sys2Proof.Machine

/-- `MODE`: which session is open (R25). The register is 2 bits wide and the value 3 is never written
(R20), so the type has no fourth value (log entry 15). -/
inductive Mode where
  /-- 0: no session is open. -/
  | idle
  /-- 1: an encode session is open. -/
  | enc
  /-- 2: a decode session is open. -/
  | dec
deriving DecidableEq, Repr

/-- What the host does to the block next (R159): it offers one command word on the command port, or it
asserts reset. Reading STATUS and the response port are functions of the state (Machine/Ports.lean). -/
inductive HostAction where
  /-- Offer the command word on `cmd` with `cmd_valid` high (R60, R158). -/
  | command (w : PortWord)
  /-- Assert `rst` (R150, R151). -/
  | reset
deriving DecidableEq, Repr

/-- The block has no fault: its datapath never fails and a misused command is rejected, which is
defined behaviour and a next state (60_exceptions.md R130, R131, R146). Nobody raises one: safe. -/
inductive Fault where
deriving DecidableEq, Repr

/-- The refusals of the model. -/
inductive Refusal where
  /-- Raised by exec's arm of a command that has no meaning yet; no arm of this model raises it. Safe. -/
  | notModelled (mnemonic : String)
  /-- Raised by a command issued in a state that breaks R28 or R29. No command sequence from reset
  reaches one, the command rules say nothing about it and a model may refuse to step from it (R31,
  R146, I6; log entry 2). Safe: it only loses claims about states the block never reaches. -/
  | unreachableState
deriving DecidableEq, Repr

/-- The state of one instance: the nine registers of R20, the port signal `resp_valid` of R158, and the
actions the host has queued at the ports (the model's own, log entry 3). -/
structure State where
  /-- `MODE`, the open session (R25). -/
  mode : Mode
  /-- `ACC`, the bit accumulator; bit 0 is the oldest pending bit (R22). -/
  acc : BitVec 21
  /-- `BCNT`, how many bits of `ACC` are valid (R23). -/
  bcnt : BitVec 5
  /-- `LV`, whether a low digit is pending (R24). -/
  lv : Bool
  /-- `LVAL`, the pending low digit, 0 when `LV` is 0 (R24). -/
  lval : BitVec 7
  /-- `ERR_ILL`, sticky (R26). -/
  errIll : Bool
  /-- `ERR_OPND`, sticky (R26). -/
  errOpnd : Bool
  /-- `ERR_MODE`, sticky (R26). -/
  errMode : Bool
  /-- `RESP_Q`, the response word of the latest command (R27). -/
  respQ : PortWord
  /-- `resp_valid`: a command has ended since reset (R158; log entry 6). -/
  respValid : Bool
  /-- What the host will do next, first action first (R21, R159; log entry 3). -/
  host : List HostAction
deriving DecidableEq, Repr

/-- R20, R150: the reset state. Every register is 0, `resp_valid` is low (R158) and the block waits for
its first command (R55, R150): the host has queued nothing. -/
def State.reset : State where
  mode := .idle
  acc := 0
  bcnt := 0
  lv := false
  lval := 0
  errIll := false
  errOpnd := false
  errMode := false
  respQ := 0
  respValid := false
  host := []

end Sys2Proof.Machine
end

