-- ==== Sys2Proof/Machine/Flags.lean ====
section
/-! DEFINITION. Machine/Flags.lean: the causes of rejection and the three sticky error flags, the only flags the
block has beside `LV` (10_state.md R26, R33; 60_exceptions.md R131, R134). No command clears an error
flag and none is computed from data (R26, R33). -/

namespace Sys2Proof.Machine

/-- The cause of a rejection (R134). -/
inductive Cause where
  /-- 1, ILLEGAL_OPCODE. -/
  | illegalOpcode
  /-- 2, RESERVED_OPERAND. -/
  | reservedOperand
  /-- 3, MODE_MISMATCH. -/
  | modeMismatch
deriving DecidableEq, Repr

/-- `ECODE`, the cause code (R134). -/
def Cause.code : Cause → BitVec 2
  | .illegalOpcode => 1
  | .reservedOperand => 2
  | .modeMismatch => 3

/-- The cause for which a word that is no command is rejected (R64 (b), (c)). -/
def Cause.ofDecodeError : DecodeError → Cause
  | .illegalOpcode => .illegalOpcode
  | .reservedOperand => .reservedOperand

/-- R131, R134: set the sticky flag of a cause, and only that one. -/
def State.raiseFlag (s : State) : Cause → State
  | .illegalOpcode => { s with errIll := true }
  | .reservedOperand => { s with errOpnd := true }
  | .modeMismatch => { s with errMode := true }

end Sys2Proof.Machine
end

