-- ==== Sys2Proof/Machine/Legal.lean ====
section
/-! DEFINITION. Machine/Legal.lean: the bounds that hold of every reachable state between commands (10_state.md
R28, R29). R31: the command rules say nothing about any other state. -/

namespace Sys2Proof.Machine

/-- R28: the bits of `ACC` at or above position `BCNT` are zero. -/
abbrev State.AccFits (s : State) : Prop := s.acc.toNat < 2 ^ s.bcnt.toNat

/-- R29 (a): with no session open nothing is pending. -/
abbrev State.IdleClear (s : State) : Prop :=
  s.mode = .idle → s.acc = 0 ∧ s.bcnt = 0 ∧ s.lv = false ∧ s.lval = 0

/-- R29 (b): an encode session holds at most 12 bits and no digit. -/
abbrev State.EncBounded (s : State) : Prop :=
  s.mode = .enc → s.bcnt.toNat ≤ 12 ∧ s.lv = false ∧ s.lval = 0

/-- R29 (c): a decode session holds at most 7 bits; a pending digit is at most 90, and `LVAL` is 0
without one. -/
abbrev State.DecBounded (s : State) : Prop :=
  s.mode = .dec →
    s.bcnt.toNat ≤ 7 ∧ (s.lv = true → s.lval.toNat ≤ 90) ∧ (s.lv = false → s.lval = 0)

/-- R28 and R29 together, as a check that can be run. -/
def State.legal (s : State) : Bool :=
  decide (s.AccFits ∧ s.IdleClear ∧ s.EncBounded ∧ s.DecBounded)

/-- The states the command rules speak about (R31). -/
abbrev State.Legal (s : State) : Prop := s.legal = true

end Sys2Proof.Machine
end

