-- ==== Sys2Proof/Machine/Ports.lean ====
section
/-! DEFINITION. Machine/Ports.lean: the response word (30_encoding.md R66), the STATUS word (R67) and the block's
port signals (70_reset_and_hazards.md R158). Reading a port changes nothing (20_memory.md R54), so
each is a function of the state. -/

namespace Sys2Proof.Machine

/-- R66, `Resp(out, rej, e)`: bits 7:0 `OUT0`, 15:8 `OUT1`, 17:16 `CNT`, 18 `REJ`, 20:19 `ECODE`, 31:21 zero. -/
def respWord (out : List Byte) (rej : Bool) (e : BitVec 2) : PortWord :=
  0#11 ++ e ++ BitVec.ofBool rej ++ BitVec.ofNat 2 out.length ++ out[1]?.getD 0#8 ++ out[0]?.getD 0#8

/-- `CNT`, bits 17:16 of a response (R66). -/
def respCount (r : PortWord) : Nat := (r.extractLsb' 16 2).toNat
/-- `REJ`, bit 18 of a response (R66). -/
def respRejected (r : PortWord) : Bool := r.getLsbD 18
/-- `ECODE`, bits 20:19 of a response (R66). -/
def respCode (r : PortWord) : BitVec 2 := r.extractLsb' 19 2
/-- `OUT0`, bits 7:0 of a response (R66). -/
def respOut0 (r : PortWord) : Byte := r.extractLsb' 0 8
/-- `OUT1`, bits 15:8 of a response (R66). -/
def respOut1 (r : PortWord) : Byte := r.extractLsb' 8 8

/-- R66: the output items the host takes from a response, `OUT0` then `OUT1`, up to `CNT`. -/
def respItems (r : PortWord) : List Byte := [respOut0 r, respOut1 r].take (respCount r)

/-- The 2-bit value of `MODE` (R20, R25). -/
def Mode.bits : Mode → BitVec 2
  | .idle => 0
  | .enc => 1
  | .dec => 2

/-- R67, the STATUS word: bits 1:0 `MODE`, 6:2 `BCNT`, 7 `LV`, 14:8 `LVAL`, 15 zero, 16 `ERR_ILL`,
17 `ERR_OPND`, 18 `ERR_MODE`, 31:19 zero. `ACC` is not on the port (R32). -/
def State.status (s : State) : PortWord :=
  0#13 ++ BitVec.ofBool s.errMode ++ BitVec.ofBool s.errOpnd ++ BitVec.ofBool s.errIll ++ 0#1
    ++ s.lval ++ BitVec.ofBool s.lv ++ s.bcnt ++ s.mode.bits

/-- `resp`, the response port: it shows `RESP_Q` (R27, R158). -/
def State.respPort (s : State) : PortWord := s.respQ

/-- `resp_valid` (R158). -/
def State.respValidPort (s : State) : Bool := s.respValid

/-- `cmd` (R158): the word on the command port, where the host offers one. -/
def State.cmdPort (s : State) : Option PortWord :=
  match s.host with
  | .command w :: _ => some w
  | .reset :: _ => none
  | [] => none

/-- `cmd_valid` (R158): the host offers a command. -/
def State.cmdValid (s : State) : Bool := s.cmdPort.isSome

/-- `cmd_ready` (R158): low only while a command executes. A command is one atomic step (R54), so between
steps, which is where a state stands, it is high. -/
def State.cmdReady (_ : State) : Bool := true

/-- `rst` (R150, R158): the host asserts reset. -/
def State.rstPort (s : State) : Bool :=
  match s.host with
  | .reset :: _ => true
  | .command _ :: _ => false
  | [] => false

end Sys2Proof.Machine
end

