-- ==== Sys2Proof/Machine/Ops.lean ====
section
/-! DEFINITION. Machine/Ops.lean: the named register writes, the command check (60_exceptions.md R132, R133), taking
a rejection (R131, the block's only exception), and running a command (30_encoding.md R68). There is
no return from a rejection (R138). -/

namespace Sys2Proof.Machine

/-! ## Register writes -/

/-- Write `MODE`. -/
def State.setMode (s : State) (m : Mode) : State := { s with mode := m }

/-- The pending bits as the locals a command starts from. -/
def State.accum (s : State) : Accum := ⟨s.acc, s.bcnt.toNat⟩

/-- Write `ACC` and `BCNT`. -/
def State.setAccum (s : State) (a : Accum) : State :=
  { s with acc := a.acc, bcnt := BitVec.ofNat 5 a.count }

/-- R24: hold a low digit: `LV` 1 and `LVAL` the digit. -/
def State.setPending (s : State) (d : Digit) : State := { s with lv := true, lval := d.bits }

/-- R24: hold no digit: whenever `LV` is set to 0, so is `LVAL`. -/
def State.clearPending (s : State) : State := { s with lv := false, lval := 0 }

/-- Write `RESP_Q`; the response is on the port from now on (R27, R158). -/
def State.respond (s : State) (r : PortWord) : State := { s with respQ := r, respValid := true }

/-- R22, R23: no pending bits, as at the start and the end of a session. -/
def Accum.empty : Accum := ⟨0, 0⟩

/-! ## The command check -/

/-- R133, `ModeOK(mode, op)`: the mode each command needs. -/
def modeOK (m : Mode) : Instr → Bool
  | .nop => true
  | .startEnc => true
  | .startDec => true
  | .encByte _ => decide (m = .enc)
  | .encEnd => decide (m = .enc)
  | .decSym _ => decide (m = .dec)
  | .decEnd => decide (m = .dec)
  | .alphaRd _ => true
  | .revRd _ => true

/-- R132 for a decoded command: the cause it is rejected for, if any. The decoder has done the opcode and
operand checks; an ill-formed term, which no word decodes to, counts as a reserved operand (log
entry 12). -/
def check (i : Instr) (s : State) : Option Cause :=
  if i.wellFormed = false then some .reservedOperand
  else if modeOK s.mode i = false then some .modeMismatch
  else none

/-! ## Taking a rejection -/

/-- R131, `Reject(S, e)`: set the cause's sticky flag and answer `Resp([], 1, e)`; nothing else changes. It
saves no state and transfers no control (R137). -/
def reject (c : Cause) (s : State) : State := (s.raiseFlag c).respond (respWord [] true c.code)

/-! ## Running a command -/

/-- What an accepted command does: its state writes and its output list `out` (R9 (c), R68). -/
structure Effect where
  /-- The state with the command's writes, `RESP_Q` apart. -/
  state : State
  /-- The items it emitted, first item first. -/
  out : List Byte
deriving DecidableEq, Repr

/-- R68: after a command that was not rejected, `RESP_Q` is `Resp(out, 0, 0)`. -/
def complete (e : Effect) : State := e.state.respond (respWord e.out false 0)

/-- R31, R146: the rules give a next state in every state that meets R28 and R29; the model refuses to
step from any other (log entry 2). -/
def whenLegal (s t : State) : Host.Outcome State Fault Refusal :=
  if s.Legal then .next t else .refused .unreachableState

/-- R68: a command is rejected for the first cause that applies, or has its effect. -/
def perform (i : Instr) (s : State) (e : Effect) : Host.Outcome State Fault Refusal :=
  whenLegal s (match check i s with
    | some c => reject c s
    | none => complete e)

/-- R131, R132: a word that is no command is rejected for its decoding error. -/
def rejectWord (e : DecodeError) (s : State) : Host.Outcome State Fault Refusal :=
  whenLegal s (reject (Cause.ofDecodeError e) s)

end Sys2Proof.Machine
end

