-- ==== Sys2Proof/Machine/Control.lean ====
section
/-! DEFINITION. Machine/Control.lean: the session-control commands NOP, START_ENC and START_DEC (41_control.md R91 to
R93). -/

namespace Sys2Proof.Machine

/-- R93: NOP changes nothing but `RESP_Q`. -/
def nopEffect (s : State) : Effect := ⟨s, []⟩

/-- R91, R92, D12: open a session of mode `m` with nothing pending; an open session is aborted. -/
def startEffect (m : Mode) (s : State) : Effect :=
  ⟨((s.setMode m).setAccum Accum.empty).clearPending, []⟩

/-- NOP (R93). -/
def execNop (s : State) : Host.Outcome State Fault Refusal := perform .nop s (nopEffect s)

/-- START_ENC (R91). -/
def execStartEnc (s : State) : Host.Outcome State Fault Refusal :=
  perform .startEnc s (startEffect .enc s)

/-- START_DEC (R92). -/
def execStartDec (s : State) : Host.Outcome State Fault Refusal :=
  perform .startDec s (startEffect .dec s)

end Sys2Proof.Machine
end

