-- ==== Sys2Proof/Machine/Rom.lean ====
section
/-! DEFINITION. Machine/Rom.lean: the reads of the alphabet ROM and the reverse-table ROM, the block's only memory
(20_memory.md R40 to R49). The ROMs are never written (R49), so they are functions of the alphabet. -/

namespace Sys2Proof.Machine

/-- R46, `AlphaRead(i)`: the entry `ALPHA[i]`. The entries of R42 are the same in every conforming `ALPHA`
and are read from R42's table, which the kernel can evaluate; `alphaRead_eq_code` (Laws/Rom.lean)
shows that this is `A.code i` for every index (log entry 9). The address is a digit, so 91 to 127,
which hold no entry, cannot be read (R40 (a), R53). -/
def alphaRead (A : Alphabet) (i : Digit) : Code :=
  (pinnedCode i).getD (A.code i)

/-- The index whose entry R42 fixes to the code `c`, if there is one. -/
def pinnedIndex (c : Code) : Option Digit :=
  (List.finRange 91).find? fun i => pinnedCode i == some c

/-- R45: the index `i` with `ALPHA[i] = c`, if there is one. The pinned entries are looked at first, and
a code that R41 excludes is in no alphabet; `symbolIndex_eq_some` (Laws/Rom.lean) says the result is
the inverse of `ALPHA` (log entry 9). -/
def symbolIndex (A : Alphabet) (c : Code) : Option Digit :=
  match pinnedIndex c with
  | some i => some i
  | none => if isCandidate c then (List.finRange 91).find? fun i => A.code i == c else none

/-- R45, R47, `RevRead(c)`: the digit of the code `c`, or the sentinel 0x7F. -/
def revRead (A : Alphabet) (c : Code) : Code :=
  match symbolIndex A c with
  | some i => i.bits
  | none => Config.sentinel

end Sys2Proof.Machine
end

