-- ==== Sys2Proof/Machine/Operands.lean ====
section
/-! DEFINITION. Machine/Operands.lean: the three operand forms of R63 and how the datapath reads each: a byte, a
code point classified by `SymDigit` (20_memory.md R48), and an alphabet index. -/

namespace Sys2Proof.Machine

/-- R63 (a): ENC_BYTE's byte as it enters the accumulator, `zext_21(n)`. -/
def byteBits (n : Byte) : BitVec 21 := n.setWidth 21

/-- R48, `SymDigit(cp)`: the digit of a code point, or none. A code point above 127 is not looked up. -/
def symDigit (A : Alphabet) (cp : CodePoint) : Option Digit :=
  if 127 < cp.toNat then none else symbolIndex A (cp.extractLsb' 0 7)

/-- R63 (c): ALPHA_RD's index as a digit; none for 91 to 127, which the command check rejects (R132). -/
def indexDigit (idx : BitVec 7) : Option Digit :=
  if h : idx.toNat < 91 then some ⟨idx.toNat, h⟩ else none

/-- R66, D26: a ROM value as an output item, zero-extended to 8 bits. -/
def codeItem (c : Code) : Byte := c.setWidth 8

/-- R24, R113: a pending digit as the 21 bits DEC_END appends, `zext_21(LVAL)`. -/
def loneBits (lval : BitVec 7) : BitVec 21 := lval.setWidth 21

end Sys2Proof.Machine
end

