-- ==== Sys2Proof/Machine/Decoder.lean ====
section
/-! DEFINITION. Machine/Decoder.lean: the decoder commands DEC_SYM and DEC_END (43_decoder.md R110, R113). Each
effect takes the alphabet as an argument; the meanings give it the parameter `ALPHA`. -/

namespace Sys2Proof.Machine

/-- R110, the last part of DEC_SYM: append a completed word and drain whole bytes. `BCNT` is at most 31, so
`b` is at most 44 and five rounds are all the loop can make; from a state of R29 it makes one or two. -/
def decWordEffect (w : StreamWord) (s : State) : Effect :=
  let drained := drainBytes 5 (s.accum.ins (w.setWidth 21) 13)
  ⟨s.setAccum drained.2, drained.1⟩

/-- R110, DEC_SYM for the digit `d`: the first digit of a pair is held, the second completes the pair,
and an overflow pair is discarded without touching `ACC` and `BCNT`. -/
def decDigitEffect (d : Digit) (s : State) : Effect :=
  if s.lv = false then ⟨s.setPending d, []⟩
  else
    match combine s.lval.toNat d.val with
    | none => ⟨s.clearPending, []⟩
    | some w => decWordEffect w s.clearPending

/-- R110, DEC_SYM's pseudocode: a code point that is no symbol is skipped. -/
def decSymEffect (A : Alphabet) (cp : CodePoint) (s : State) : Effect :=
  match symDigit A cp with
  | none => ⟨s, []⟩
  | some d => decDigitEffect d s

/-- R113: the pending bits at the end of a decode session, with a lone digit counted as 7 bits. -/
def loneAccum (s : State) : Accum :=
  if s.lv = true then s.accum.ins (loneBits s.lval) Config.loneBits else s.accum

/-- R113, DEC_END's pseudocode: at most one byte, then close the session and hold nothing. -/
def decEndEffect (s : State) : Effect :=
  ⟨((s.setMode .idle).setAccum Accum.empty).clearPending,
   if Config.byteBits ≤ (loneAccum s).count then [(loneAccum s).low 8] else []⟩

/-- DEC_SYM (R110). -/
def execDecSym (cp : CodePoint) (s : State) : Host.Outcome State Fault Refusal :=
  perform (.decSym cp) s (decSymEffect Config.alpha cp s)

/-- DEC_END (R113). -/
def execDecEnd (s : State) : Host.Outcome State Fault Refusal := perform .decEnd s (decEndEffect s)

end Sys2Proof.Machine
end

