-- ==== Sys2Proof/Machine/Encoder.lean ====
section
/-! DEFINITION. Machine/Encoder.lean: the encoder commands ENC_BYTE and ENC_END (42_encoder.md R100, R102). Each
effect takes the alphabet as an argument; the meanings give it the parameter `ALPHA`. -/

namespace Sys2Proof.Machine

/-- R51, R100: the two symbols of a full word, low digit first. -/
def wordSymbols (A : Alphabet) (w : StreamWord) : List Byte :=
  [codeItem (alphaRead A (split w).1), codeItem (alphaRead A (split w).2)]

/-- R100, ENC_BYTE's pseudocode. `BCNT` is at most 31, so `b` is at most 39 and three rounds are all the
loop can make; from a state of R29 it makes at most one. -/
def encByteEffect (A : Alphabet) (n : Byte) (s : State) : Effect :=
  let drained := drainWords 3 (s.accum.ins (byteBits n) 8)
  ⟨s.setAccum drained.2, drained.1.flatMap (wordSymbols A)⟩

/-- R102, R103: the symbols of the flush: none for no leftover bit, one for fewer than `FLUSH_MIN`, else
two. -/
def flushSymbols (A : Alphabet) (s : State) : List Byte :=
  if s.bcnt.toNat = 0 then []
  else if Config.flushMin ≤ s.bcnt.toNat then wordSymbols A (s.accum.low 13)
  else (wordSymbols A (s.accum.low 13)).take 1

/-- R102, ENC_END's pseudocode: emit the flush, close the session, hold no bits. -/
def encEndEffect (A : Alphabet) (s : State) : Effect :=
  ⟨(s.setMode .idle).setAccum Accum.empty, flushSymbols A s⟩

/-- ENC_BYTE (R100). -/
def execEncByte (n : Byte) (s : State) : Host.Outcome State Fault Refusal :=
  perform (.encByte n) s (encByteEffect Config.alpha n s)

/-- ENC_END (R102). -/
def execEncEnd (s : State) : Host.Outcome State Fault Refusal :=
  perform .encEnd s (encEndEffect Config.alpha s)

end Sys2Proof.Machine
end

