-- ==== Sys2Proof/Machine/RomAccess.lean ====
section
/-! DEFINITION. Machine/RomAccess.lean: the ROM access commands ALPHA_RD and REV_RD (44_rom_access.md R120, R121).
They change no register but `RESP_Q`. -/

namespace Sys2Proof.Machine

/-- R120, ALPHA_RD's pseudocode. An index above 90 has no entry; the check rejects it before (R132). -/
def alphaRdEffect (A : Alphabet) (idx : BitVec 7) (s : State) : Effect :=
  ⟨s, (indexDigit idx).toList.map fun i => codeItem (alphaRead A i)⟩

/-- R121: what the reverse table answers for a code point: its digit, or the sentinel. -/
def revValue (A : Alphabet) (cp : CodePoint) : Code :=
  match symDigit A cp with
  | none => Config.sentinel
  | some d => d.bits

/-- R121, REV_RD's pseudocode. -/
def revRdEffect (A : Alphabet) (cp : CodePoint) (s : State) : Effect :=
  ⟨s, [codeItem (revValue A cp)]⟩

/-- ALPHA_RD (R120). -/
def execAlphaRd (idx : BitVec 7) (s : State) : Host.Outcome State Fault Refusal :=
  perform (.alphaRd idx) s (alphaRdEffect Config.alpha idx s)

/-- REV_RD (R121). -/
def execRevRd (cp : CodePoint) (s : State) : Host.Outcome State Fault Refusal :=
  perform (.revRd cp) s (revRdEffect Config.alpha cp s)

end Sys2Proof.Machine
end

