-- ==== Sys2Proof/Machine/Dispatch.lean ====
section
/-! DEFINITION. Machine/Dispatch.lean: the meaning of each command (30_encoding.md R68). -/

namespace Sys2Proof.Machine

def exec (i : Instr) (s : State) : Host.Outcome State Fault Refusal :=
  match i with
  | .nop => Sys2Proof.Machine.execNop s
  | .startEnc => Sys2Proof.Machine.execStartEnc s
  | .startDec => Sys2Proof.Machine.execStartDec s
  | .encByte n => Sys2Proof.Machine.execEncByte n s
  | .encEnd => Sys2Proof.Machine.execEncEnd s
  | .decSym cp => Sys2Proof.Machine.execDecSym cp s
  | .decEnd => Sys2Proof.Machine.execDecEnd s
  | .alphaRd idx => Sys2Proof.Machine.execAlphaRd idx s
  | .revRd cp => Sys2Proof.Machine.execRevRd cp s

end Sys2Proof.Machine
end

