-- ==== Sys2Proof/Machine/Fetch.lean ====
section
/-! DEFINITION. Machine/Fetch.lean: what the block takes from its ports next (10_state.md R21, 70_reset_and_hazards.md
R151, R158, R159). Commands are not fetched by the block: the host presents them one at a time, and
the order in which it does is the program order (R21). -/

namespace Sys2Proof.Machine

/-- What is at the ports. -/
inductive Fetched where
  /-- Neither a command nor reset: the block waits (R145). -/
  | nothing
  /-- Reset is asserted (R150); the state is the one that reset leaves. -/
  | reset (s : State)
  /-- A command word was taken; the state is the one the command runs in. -/
  | word (w : PortWord) (s : State)
deriving DecidableEq, Repr

/-- R150: every register at its reset value, whatever it held; the host's further actions stay queued. -/
def State.resetRegisters (s : State) : State := { State.reset with host := s.host }

/-- Take the host's next action off the queue. -/
def State.withHost (s : State) (acts : List HostAction) : State := { s with host := acts }

/-- The host's next action: R158, a command is taken when one is offered; R151, reset is a step of its
own between two commands. -/
def fetch (s : State) : Fetched :=
  match s.host with
  | [] => .nothing
  | .reset :: rest => .reset (s.withHost rest).resetRegisters
  | .command w :: rest => .word w (s.withHost rest)

/-- R159: the host presents one more word, ahead of everything it has queued. -/
def State.present (s : State) (w : PortWord) : State := s.withHost (.command w :: s.host)

end Sys2Proof.Machine
end

