-- ==== Sys2Proof/Machine/Step.lean ====
section
/-! DEFINITION. Machine/Step.lean: one step of the block (30_encoding.md R68): the host's next command, or reset
(70_reset_and_hazards.md R151), or waiting for a command (60_exceptions.md R145). -/

namespace Sys2Proof.Machine

/-- One step. A word that decodes is run by `exec`, any other is rejected (R131, R132). Without a command
the block holds its state and waits (R145; log entry 5). -/
def step (s : State) : Host.Outcome State Fault Refusal :=
  match fetch s with
  | .nothing => .next s
  | .reset t => .next t
  | .word w t =>
    match decode w with
    | .ok i => exec i t
    | .error e => rejectWord e t

/-- The state in which the very next step runs the word `w` of the opcode table: the host presents it on
the command port (R21; log entry 3). -/
def State.withFetchWord (s : State) (nbits w : Nat) : State := s.present (tableWord nbits w)

end Sys2Proof.Machine
end

