-- ==== Sys2Proof/Machine/Session.lean ====
section
/-! DEFINITION. Machine/Session.lean: the host's side of a run: issuing words one at a time, the observation of a
run (70_reset_and_hazards.md R159, R160), the session programs of 30_encoding.md R70 and a session's
output (41_control.md R90). -/

namespace Sys2Proof.Machine

/-! ## Running a program -/

/-- R159: the host offers one word and the block takes it. -/
def issue (w : PortWord) (s : State) : Host.Outcome State Fault Refusal :=
  step (s.withHost [.command w])

/-- R21, R155, R159: a program is a finite sequence of words; the host issues them in order and reads each
response before the next word. The responses in order and the last state; none if a step stops. -/
def runWords : List PortWord → State → Option (List PortWord × State)
  | [], s => some ([], s)
  | w :: ws, s =>
    match issue w s with
    | .next t => (runWords ws t).map fun r => (t.respPort :: r.1, r.2)
    | .fault _ => none
    | .refused _ => none

/-- R160: the observation of a run: its response words in order, and the STATUS word after the last
command. -/
def observe (ws : List PortWord) (s : State) : Option (List PortWord × PortWord) :=
  (runWords ws s).map fun r => (r.1, r.2.status)

/-! ## Session programs -/

/-- R70 (a), `ENC_BYTES`. -/
def encBytes (data : List Byte) : List Instr := data.map .encByte

/-- R70 (b), `DEC_STR`: one DEC_SYM per code point, symbols or not. -/
def decStr (text : List CodePoint) : List Instr := text.map .decSym

/-- R70 (c), `ENCODE`: one complete encode session. -/
def encodeSession (data : List Byte) : List Instr := .startEnc :: (encBytes data ++ [.encEnd])

/-- R70 (d), `DECODE`: one complete decode session. -/
def decodeSession (text : List CodePoint) : List Instr := .startDec :: (decStr text ++ [.decEnd])

/-! ## The output of a session -/

/-- R90: the commands whose items belong to a session's output, its (b) and (c) commands. -/
def isSessionData : Instr → Bool
  | .nop => false
  | .startEnc => false
  | .startDec => false
  | .encByte _ => true
  | .encEnd => true
  | .decSym _ => true
  | .decEnd => true
  | .alphaRd _ => false
  | .revRd _ => false

/-- R90: what one word of a session adds to its output; a rejected word has no items. -/
def outputOf (w resp : PortWord) : List Byte :=
  match decode w with
  | .ok i => if isSessionData i then respItems resp else []
  | .error _ => []

/-- R90: the output of a run of words, all the items of its session commands in command order. -/
def sessionOutput (ws : List PortWord) (s : State) : Option (List Byte) :=
  (runWords ws s).map fun r => ((ws.zip r.1).map fun p => outputOf p.1 p.2).flatten

/-- The output of a program of commands. -/
def programOutput (prog : List Instr) (s : State) : Option (List Byte) :=
  sessionOutput (prog.map encode) s

end Sys2Proof.Machine
end

