-- ==== Sys2Proof/Machine/Assembler.lean ====
section
/-! DEFINITION. Machine/Assembler.lean: the assembly syntax of the commands (30_encoding.md R69) and the
pseudo-instructions (R70), as a function from a line's characters to the command words it stands for.
The block never sees text; what R69 leaves open of the layout is log entry 13. -/

namespace Sys2Proof.Machine

/-- Why a line is refused. -/
inductive AsmError where
  /-- The first word of the line is no mnemonic. -/
  | unknownMnemonic
  /-- The command takes an operand and has none. -/
  | missingOperand
  /-- The command takes no operand and has one. -/
  | unexpectedOperand
  /-- The operand is not written as R69 says. -/
  | badOperand
  /-- R69: "An assembler refuses an operand out of range; it never truncates one." -/
  | operandOutOfRange
deriving DecidableEq, Repr

/-! ## Characters -/

def isBlank (c : Char) : Bool := c == ' ' || c == '\t'

def trimBlanks (cs : List Char) : List Char :=
  ((cs.dropWhile isBlank).reverse.dropWhile isBlank).reverse

/-- R69 (e): `;` starts a comment, but for one inside double quotes. The first argument says whether we
are inside them. -/
def stripComment : Bool → List Char → List Char
  | _, [] => []
  | true, '\\' :: c :: cs => '\\' :: c :: stripComment true cs
  | q, c :: cs =>
    if c = '"' then c :: stripComment (!q) cs
    else if c = ';' ∧ q = false then []
    else c :: stripComment q cs

/-! ## Operands -/

/-- The value of a digit character, up to base 16. -/
def digitValue (c : Char) : Option Nat :=
  if '0' ≤ c ∧ c ≤ '9' then some (c.toNat - 0x30)
  else if 'a' ≤ c ∧ c ≤ 'f' then some (c.toNat - 0x61 + 10)
  else if 'A' ≤ c ∧ c ≤ 'F' then some (c.toNat - 0x41 + 10)
  else none

/-- The number that follows `acc` when the digits `cs` of base `base` are read on. -/
def readDigits (base : Nat) : Nat → List Char → Option Nat
  | acc, [] => some acc
  | acc, c :: cs =>
    match digitValue c with
    | some d => if d < base then readDigits base (acc * base + d) cs else none
    | none => none

/-- One digit or more. -/
def readDigits1 (base : Nat) (cs : List Char) : Option Nat :=
  if cs.isEmpty then none else readDigits base 0 cs

/-- R69 (a): decimal `65`, hex `0x41` or binary `0b01000001`. -/
def readNumber : List Char → Option Nat
  | '0' :: 'x' :: cs => readDigits1 16 cs
  | '0' :: 'b' :: cs => readDigits1 2 cs
  | cs => readDigits1 10 cs

/-- R69 (b): the code point an escaped character stands for. -/
def escapeValue (c : Char) : Option Nat :=
  if c = '"' then some 0x22
  else if c = '\\' then some 0x5C
  else if c = 't' then some 0x09
  else if c = 'n' then some 0x0A
  else if c = 'r' then some 0x0D
  else if c = 's' then some 0x20
  else none

/-- R69 (b), R70 (b): the code points of a text, read from behind its opening quote; the closing quote
must end it. -/
def readText : List Char → Option (List Nat)
  | [] => none
  | '\\' :: c :: cs =>
    match escapeValue c, readText cs with
    | some v, some vs => some (v :: vs)
    | _, _ => none
  | c :: cs =>
    if c = '"' then (if cs.isEmpty then some [] else none)
    else if c = '\\' then none
    else (readText cs).map (c.toNat :: ·)

/-- A text in double quotes. -/
def readQuoted : List Char → Option (List Nat)
  | '"' :: cs => readText cs
  | _ => none

/-- R69 (b): a code point is a number or a character literal, which holds exactly one character. -/
def readCodePoint (cs : List Char) : Option Nat :=
  match readQuoted cs with
  | some [v] => some v
  | some _ => none
  | none => readNumber cs

/-- The parts between the commas of a list. -/
def splitCommas : List Char → List (List Char)
  | [] => [[]]
  | c :: cs =>
    match splitCommas cs with
    | [] => [[c]]
    | part :: parts => if c = ',' then [] :: part :: parts else (c :: part) :: parts

/-- R69 (f): `.word` takes `0x` and eight hex digits. -/
def readWord : List Char → Option Nat
  | '0' :: 'x' :: cs => if cs.length = 8 then readDigits1 16 cs else none
  | _ => none

/-- R69: an operand of at most `max`, never truncated. -/
def inRange (max : Nat) (v : Option Nat) : Except AsmError Nat :=
  match v with
  | none => .error .badOperand
  | some n => if n ≤ max then .ok n else .error .operandOutOfRange

/-- Each of a list's operands in range. -/
def allInRange (max : Nat) : List (Option Nat) → Except AsmError (List Nat)
  | [] => .ok []
  | v :: vs => do
    let n ← inRange max v
    let ns ← allInRange max vs
    .ok (n :: ns)

/-- R70 (a): the bytes of a comma-separated list; an empty operand is the empty list. -/
def readByteList (cs : List Char) : Except AsmError (List Byte) :=
  if cs.isEmpty then .ok []
  else (allInRange 255 ((splitCommas cs).map fun p => readNumber (trimBlanks p))).map
    (·.map (BitVec.ofNat 8))

/-- R70 (b): the code points of a text operand. -/
def readTextOperand (cs : List Char) : Except AsmError (List CodePoint) :=
  match readQuoted cs with
  | some vs => .ok (vs.map (BitVec.ofNat 21))
  | none => .error .badOperand

/-! ## Lines -/

/-- The first words a line may have (R69, R70). -/
inductive Mnemonic where
  | nop | startEnc | startDec | encByte | encEnd | decSym | decEnd | alphaRd | revRd
  | word | encBytes | decStr | encode | decode
deriving DecidableEq, Repr

/-- How each mnemonic is spelled (R61, R69, R70). -/
def spelling : Mnemonic → List Char
  | .nop => ['N', 'O', 'P']
  | .startEnc => ['S', 'T', 'A', 'R', 'T', '_', 'E', 'N', 'C']
  | .startDec => ['S', 'T', 'A', 'R', 'T', '_', 'D', 'E', 'C']
  | .encByte => ['E', 'N', 'C', '_', 'B', 'Y', 'T', 'E']
  | .encEnd => ['E', 'N', 'C', '_', 'E', 'N', 'D']
  | .decSym => ['D', 'E', 'C', '_', 'S', 'Y', 'M']
  | .decEnd => ['D', 'E', 'C', '_', 'E', 'N', 'D']
  | .alphaRd => ['A', 'L', 'P', 'H', 'A', '_', 'R', 'D']
  | .revRd => ['R', 'E', 'V', '_', 'R', 'D']
  | .word => ['.', 'w', 'o', 'r', 'd']
  | .encBytes => ['E', 'N', 'C', '_', 'B', 'Y', 'T', 'E', 'S']
  | .decStr => ['D', 'E', 'C', '_', 'S', 'T', 'R']
  | .encode => ['E', 'N', 'C', 'O', 'D', 'E']
  | .decode => ['D', 'E', 'C', 'O', 'D', 'E']

/-- Every mnemonic. -/
def mnemonics : List Mnemonic :=
  [.nop, .startEnc, .startDec, .encByte, .encEnd, .decSym, .decEnd, .alphaRd, .revRd,
   .word, .encBytes, .decStr, .encode, .decode]

/-- R69 (d): a command that takes no operand. -/
def bareLine (i : Instr) (operand : List Char) : Except AsmError (List PortWord) :=
  if operand.isEmpty then .ok [Sys2Proof.encode i] else .error .unexpectedOperand

/-- A line whose operand must be there. -/
def withOperand (operand : List Char) (f : List Char → Except AsmError (List PortWord)) :
    Except AsmError (List PortWord) :=
  if operand.isEmpty then .error .missingOperand else f operand

/-- R69, R70: the words of one line, given its mnemonic and its operand. -/
def assembleOperand (m : Mnemonic) (operand : List Char) : Except AsmError (List PortWord) :=
  match m with
  | .nop => bareLine .nop operand
  | .startEnc => bareLine .startEnc operand
  | .startDec => bareLine .startDec operand
  | .encByte => withOperand operand fun cs =>
      (inRange 255 (readNumber cs)).map fun n => [Sys2Proof.encode (.encByte (BitVec.ofNat 8 n))]
  | .encEnd => bareLine .encEnd operand
  | .decSym => withOperand operand fun cs =>
      (inRange 0x1FFFFF (readCodePoint cs)).map fun n => [Sys2Proof.encode (.decSym (BitVec.ofNat 21 n))]
  | .decEnd => bareLine .decEnd operand
  | .alphaRd => withOperand operand fun cs =>
      (inRange 90 (readNumber cs)).map fun n => [Sys2Proof.encode (.alphaRd (BitVec.ofNat 7 n))]
  | .revRd => withOperand operand fun cs =>
      (inRange 0x1FFFFF (readCodePoint cs)).map fun n => [Sys2Proof.encode (.revRd (BitVec.ofNat 21 n))]
  | .word => withOperand operand fun cs =>
      (inRange 0xFFFFFFFF (readWord cs)).map fun n => [BitVec.ofNat 32 n]
  | .encBytes => (readByteList operand).map fun bs => (encBytes bs).map Sys2Proof.encode
  | .decStr => withOperand operand fun cs =>
      (readTextOperand cs).map fun t => (decStr t).map Sys2Proof.encode
  | .encode => (readByteList operand).map fun bs => (encodeSession bs).map Sys2Proof.encode
  | .decode => withOperand operand fun cs =>
      (readTextOperand cs).map fun t => (decodeSession t).map Sys2Proof.encode

/-- R69: one line: a mnemonic, then at most one operand, then perhaps a comment. An empty line stands for
no word. -/
def assembleLine (line : List Char) : Except AsmError (List PortWord) :=
  let body := trimBlanks (stripComment false line)
  if body.isEmpty then .ok []
  else
    match mnemonics.find? fun m => spelling m == body.takeWhile (! isBlank ·) with
    | none => .error .unknownMnemonic
    | some m => assembleOperand m (trimBlanks (body.dropWhile (! isBlank ·)))

/-- R69: a program is one command per line; the words of its lines in order, or the first line's error. -/
def assemble : List (List Char) → Except AsmError (List PortWord)
  | [] => .ok []
  | line :: rest => do
    let ws ← assembleLine line
    let more ← assemble rest
    .ok (ws ++ more)

end Sys2Proof.Machine
end

