-- ==== Sys2Proof/Machine/Platform.lean ====
section
/-! DEFINITION. Machine/Platform.lean: several instances side by side (00_scope.md R7; 60_exceptions.md R143). Each
has its own state and its own host; they share the read-only ROMs, which are the one `ALPHA` of
Config.lean (log entry 14). -/

namespace Sys2Proof.Machine

/-- The states of a platform's instances; how many there are is the platform's choice (R7). -/
abbrev Platform := List State

/-- One step of the `k`-th instance; the others stand still. Instances have no identifiers: `k` is the
model's own name for one. Without a `k`-th instance nothing happens. -/
def stepInstance (p : Platform) (k : Nat) : Host.Outcome Platform Fault Refusal :=
  match p[k]? with
  | none => .next p
  | some s =>
    match step s with
    | .next t => .next (p.set k t)
    | .fault f => .fault f
    | .refused r => .refused r

end Sys2Proof.Machine
end

