-- ==== Sys2Proof/Machine/Source.lean ====
section
/-! DEFINITION. Machine/Source.lean: the source's two functions, `encode` and `decode`, as the quotes of R100, R102,
R110 and R113 give them: whole buffers, and an accumulator `C` and a bit count `B` of unbounded
precision. The step never calls them; claims compare sessions with them (R104, R114). -/

namespace Sys2Proof.Machine

/-- `alphabet[k]`, for `k` at most 90. -/
def sourceSymbol (A : Alphabet) (k : Nat) : Code := A.code (Fin.ofNat 91 k)

/-- R100's quote: "While `B >= 13`: extract the low 13 bits of `C` as `word` ... shift `C` right by 13;
decrement `B` by 13". The words, then the last `C` and `B`; the first argument bounds the rounds. -/
def sourceWords : Nat → Nat → Nat → List Nat × Nat × Nat
  | 0, c, b => ([], c, b)
  | rounds + 1, c, b =>
    if 13 ≤ b then
      let rest := sourceWords rounds (c >>> 13) (b - 13)
      (c % 8192 :: rest.1, rest.2)
    else ([], c, b)

/-- R102's quote: "flush remainder: if `B != 0`, take `word` = low 13 bits of `C`; emit
`alphabet[word % 91]`; additionally emit `alphabet[word / 91]` only if `B >= 7`". -/
def sourceFlush (A : Alphabet) (c b : Nat) : List Code :=
  if b = 0 then []
  else if 7 ≤ b then [sourceSymbol A (c % 8192 % 91), sourceSymbol A (c % 8192 / 91)]
  else [sourceSymbol A (c % 8192 % 91)]

/-- The source's encoder with `C` and `B` in hand. -/
def sourceEncodeFrom (A : Alphabet) : List Byte → Nat → Nat → List Code
  | [], c, b => sourceFlush A c b
  | n :: rest, c, b =>
    let w := sourceWords (b + 8) (c ||| (n.toNat <<< b)) (b + 8)
    w.1.flatMap (fun v => [sourceSymbol A (v % 91), sourceSymbol A (v / 91)])
      ++ sourceEncodeFrom A rest w.2.1 w.2.2

/-- The source's `encode`: `C` and `B` "both initialized to zero" (R91). -/
def sourceEncode (A : Alphabet) (data : List Byte) : List Code := sourceEncodeFrom A data 0 0

/-- "look up its alphabet index via the reverse table": none for what is not a valid symbol. -/
def sourceDigit (A : Alphabet) (cp : Nat) : Option Digit :=
  (List.finRange 91).find? fun i => (A.code i).toNat == cp

/-- R110's quote: "Drain: while `B >= 8`, append the low byte of `C` to output, shift `C` right by 8,
subtract 8 from `B`". -/
def sourceBytes : Nat → Nat → Nat → List Byte × Nat × Nat
  | 0, c, b => ([], c, b)
  | rounds + 1, c, b =>
    if 8 ≤ b then
      let rest := sourceBytes rounds (c >>> 8) (b - 8)
      (BitVec.ofNat 8 c :: rest.1, rest.2)
    else ([], c, b)

/-- R113's quote: a lone digit is ORed in at offset `B` and counts 7 bits; "if `B >= 8`, append one more
output byte from the low 8 bits of `C`". -/
def sourceLastByte (c b : Nat) : List Byte := if 8 ≤ b then [BitVec.ofNat 8 c] else []

/-- The source's decoder with `C`, `B` and `L` in hand. -/
def sourceDecodeFrom (A : Alphabet) : List CodePoint → Nat → Nat → Option Nat → List Byte
  | [], c, b, none => sourceLastByte c b
  | [], c, b, some l => sourceLastByte (c ||| (l <<< b)) (b + 7)
  | cp :: rest, c, b, l =>
    match sourceDigit A cp.toNat, l with
    | none, l => sourceDecodeFrom A rest c b l
    | some d, none => sourceDecodeFrom A rest c b (some d.val)
    | some d, some low =>
      if 8191 < 91 * d.val + low then sourceDecodeFrom A rest c b none
      else
        let r := sourceBytes (b + 13) (c ||| ((91 * d.val + low) <<< b)) (b + 13)
        r.1 ++ sourceDecodeFrom A rest r.2.1 r.2.2 none

/-- The source's `decode`: `C` and `B` zero and `L` "none" initially (R92). -/
def sourceDecode (A : Alphabet) (text : List CodePoint) : List Byte := sourceDecodeFrom A text 0 0 none

end Sys2Proof.Machine
end

