-- ==== Sys2Proof/Safety.lean ====
section
/-! DEFINITION. Safety.lean: what claims call a safe step, and the states the block can reach (10_state.md R31). -/

namespace Sys2Proof.Machine

/-- The step goes on: it ends in neither a fault nor a refusal (60_exceptions.md R146). -/
def Continues (o : Host.Outcome State Fault Refusal) : Prop := ∃ t, o = .next t

/-- R31: the states reachable from the reset state by a sequence of commands. The host may queue any
actions at any time (R159): any 32-bit words, and reset. -/
inductive Reachable : State → Prop where
  /-- R150, R152: a run starts at reset. -/
  | reset : Reachable State.reset
  /-- R159: the host queues what it likes. -/
  | queue (s : State) (acts : List HostAction) : Reachable s → Reachable (s.withHost acts)
  /-- One step. -/
  | step (s t : State) : Reachable s → step s = .next t → Reachable t

/-- No misuse of the command interface since the last reset (R138, R146). -/
def State.NoErrors (s : State) : Prop := s.errIll = false ∧ s.errOpnd = false ∧ s.errMode = false

end Sys2Proof.Machine
end

