-- ==== Sys2Proof/Certificates/Slice0/Obligations.lean ====
section
/-! DEFINITION. Certificates/Slice0/Obligations.lean: the statements for the provers, each from a rule of the spec.
The words the statements share come first; they are written from the spec's text in natural-number
arithmetic, apart from the model's own operations, so that a statement compares two readings. -/

namespace Sys2Proof.Claims

open Sys2Proof.Machine

/-! ## Words of the statements -/

/-- `ALPHA[k]` of the parameter `ALPHA`, as a number, for `k` at most 90. -/
def entry (k : Nat) : Nat := (Config.alpha.code (Fin.ofNat 91 k)).toNat

/-- The code point is no symbol: no entry of `ALPHA` equals it (R45, R48). -/
def NoSymbol (cp : CodePoint) : Prop := ∀ d : Digit, (Config.alpha.code d).toNat ≠ cp.toNat

/-- The code point is the symbol of the digit `d` (R45, R48). -/
def SymbolOf (cp : CodePoint) (d : Digit) : Prop := (Config.alpha.code d).toNat = cp.toNat

/-- The state with the response word `r` on the port and `resp_valid` high, as R158 says after every command,
everything else kept (R27). -/
def answered (r : Nat) (s : State) : State := { s with respQ := BitVec.ofNat 32 r, respValid := true }

/-- R131, R134: the state after a rejection with cause code `e`: the sticky flag of the cause is set, the
response has `REJ` (bit 18) and `ECODE` (bits 20:19), and nothing else changes. -/
def rejected (e : Nat) (s : State) : State :=
  { s with
    errIll := s.errIll || e == 1
    errOpnd := s.errOpnd || e == 2
    errMode := s.errMode || e == 3
    respQ := BitVec.ofNat 32 (0x40000 + e * 0x80000)
    respValid := true }

/-- The word stands for the command, in both directions. -/
def WordOf (w : PortWord) (i : Instr) : Prop := encode i = w ∧ decode w = .ok i

/-- A word that is rejected with RESERVED_OPERAND wherever the host issues it. -/
def ReservedWord (w : PortWord) : Prop :=
  ∀ (s : State) (rest : List HostAction), s.Legal → s.host = .command w :: rest →
    step s = .next (rejected 2 { s with host := rest })

/-- R133's table, by opcode number. -/
def modeTable (m : Mode) (op : Nat) : Bool :=
  if op = 0x3 ∨ op = 0x4 then m == .enc
  else if op = 0x5 ∨ op = 0x6 then m == .dec
  else true

/-- R132's `Check(S, cmd)`, line by line: the cause code, or 0. -/
def specCheck (m : Mode) (cmd : PortWord) : Nat :=
  let op := cmd.toNat / 2 ^ 28
  let arg := cmd.toNat % 2 ^ 21
  if 0x9 ≤ op then 1
  else if cmd.toNat / 2 ^ 21 % 2 ^ 7 ≠ 0 then 2
  else if (op = 0x0 ∨ op = 0x1 ∨ op = 0x2 ∨ op = 0x4 ∨ op = 0x6) ∧ arg ≠ 0 then 2
  else if op = 0x3 ∧ arg / 2 ^ 8 ≠ 0 then 2
  else if op = 0x7 ∧ (arg / 2 ^ 7 ≠ 0 ∨ 90 < arg % 2 ^ 7) then 2
  else if modeTable m op = false then 3
  else 0

/-- The mask and the match of each row of spec/opcode_table.json (R61, R62). -/
def tableRow : Instr → PortWord × PortWord
  | .nop => (0xFFFFFFFF#32, 0x00000000#32)
  | .startEnc => (0xFFFFFFFF#32, 0x10000000#32)
  | .startDec => (0xFFFFFFFF#32, 0x20000000#32)
  | .encByte _ => (0xFFFFFF00#32, 0x30000000#32)
  | .encEnd => (0xFFFFFFFF#32, 0x40000000#32)
  | .decSym _ => (0xFFE00000#32, 0x50000000#32)
  | .decEnd => (0xFFFFFFFF#32, 0x60000000#32)
  | .alphaRd _ => (0xFFFFFF80#32, 0x70000000#32)
  | .revRd _ => (0xFFE00000#32, 0x80000000#32)

/-- R62: the word fits the row of the command `i`, with ALPHA_RD's constraint on its index. -/
def FitsRow (w : PortWord) (i : Instr) : Prop :=
  w &&& (tableRow i).1 = (tableRow i).2 ∧
    ((tableRow i).2 = 0x70000000#32 → w.toNat % 2 ^ 7 ≤ 90)

/-- The registers a session lives in, and what the host will do next: everything but the error flags
and the response. -/
def SameSession (s t : State) : Prop :=
  s.mode = t.mode ∧ s.acc = t.acc ∧ s.bcnt = t.bcnt ∧ s.lv = t.lv ∧ s.lval = t.lval ∧ s.host = t.host

/-- R66: the shape of every response word. -/
def ResponseShape (r : PortWord) : Prop :=
  r.toNat < 2 ^ 21 ∧ respCount r ≤ 2 ∧
    (respCount r = 0 → respOut0 r = 0) ∧ (respCount r < 2 → respOut1 r = 0) ∧
    (respRejected r = false → respCode r = 0) ∧
    (respRejected r = true → respCount r = 0 ∧ respCode r ≠ 0)

/-- R50: the bit stream of an encode session's bytes as one number, byte 0 lowest, bit 0 first. -/
def byteStream : List Byte → Nat
  | [] => 0
  | b :: bs => b.toNat + 2 ^ 8 * byteStream bs

/-- R50, R51, R103: the symbols of the stream `v` of `n` bytes: two for each full word, low digit first,
then the flush of the leftover bits. -/
def streamSymbols (v n : Nat) : List Byte :=
  let words := 8 * n / 13
  let left := 8 * n % 13
  let last := v / 2 ^ (13 * words)
  ((List.range words).map fun j =>
      let w := v / 2 ^ (13 * j) % 2 ^ 13
      [BitVec.ofNat 8 (entry (w % 91)), BitVec.ofNat 8 (entry (w / 91))]).flatten
    ++ (if left = 0 then []
        else if left ≤ 6 then [BitVec.ofNat 8 (entry (last % 91))]
        else [BitVec.ofNat 8 (entry (last % 91)), BitVec.ofNat 8 (entry (last / 91))])

/-- R105's `f`: the symbols of a flush of `r` leftover bits. -/
def flushLength (r : Nat) : Nat := if r = 0 then 0 else if r ≤ 6 then 1 else 2

/-- R110 (i), (v): the digits of a text, its valid symbols in order. -/
def digitsOf (text : List CodePoint) : List Nat :=
  text.filterMap fun cp => (sourceDigit Config.alpha cp.toNat).map (·.val)

/-- R115: how many pairs of a digit list are kept, that is, do not overflow. -/
def keptPairs : List Nat → Nat
  | lo :: hi :: rest => (if 91 * hi + lo ≤ 8191 then 1 else 0) + keptPairs rest
  | [_] => 0
  | [] => 0

/-- R52: the decode stream of a digit list as one number: the words of the kept pairs, first word
lowest, then the lone last digit. -/
def digitStream : List Nat → Nat
  | lo :: hi :: rest =>
    if 91 * hi + lo ≤ 8191 then 91 * hi + lo + 2 ^ 13 * digitStream rest else digitStream rest
  | [lo] => lo
  | [] => 0

/-- R115: how many bytes a digit list decodes to. -/
def decodedLength (ds : List Nat) : Nat := (13 * keptPairs ds + 7 * (ds.length % 2)) / 8

/-- R110 (v): the symbols of the text are whole pairs: no digit is pending after it. -/
def WholePairs (text : List CodePoint) : Prop := (digitsOf text).length % 2 = 0

/-- R110, R115: how many bits are pending after a text of whole pairs. -/
def pendingBits (text : List CodePoint) : Nat := 13 * keptPairs (digitsOf text) % 8

/-- An accepted or rejected word that belongs to no session (R90): it is rejected in the state `t`, or it
is NOP, ALPHA_RD or REV_RD. -/
def OutsideSession (x : PortWord) (t : State) : Prop :=
  (∀ u, issue x t = .next u → respRejected u.respQ = true) ∨
    decode x = .ok .nop ∨ (∃ idx, decode x = .ok (.alphaRd idx)) ∨ (∃ cp, decode x = .ok (.revRd cp))

/-- A line of a mnemonic and a decimal number. -/
def numberLine (m : Mnemonic) (n : Nat) : List Char := spelling m ++ ' ' :: Nat.toDigits 10 n

end Sys2Proof.Claims

section

open Sys2Proof Sys2Proof.Machine Sys2Proof.Claims

/-! ## Stepping and decoding -/

/-- 30_encoding.md R68: a step takes the word at the command port, and where it decodes, runs the decoded
command in the state with that word taken. -/
def Obligations.StepRunsTheDecodedCommand : Prop :=
  ∀ (s : State) (w : PortWord) (rest : List HostAction) (i : Instr),
    s.host = .command w :: rest → decode w = .ok i → step s = exec i { s with host := rest }

/-- 60_exceptions.md R131 to R135: in every state of R28 and R29 and for every 32-bit word, the step rejects the
word with the first cause R132 finds, or, where it finds none, runs the decoded command, which raises
no flag and answers with `REJ` and `ECODE` 0. -/
def Obligations.StepChecksThenRunsOrRejects : Prop :=
  ∀ (s : State) (w : PortWord) (rest : List HostAction),
    s.Legal → s.host = .command w :: rest →
      (specCheck s.mode w ≠ 0 →
        step s = .next (rejected (specCheck s.mode w) { s with host := rest })) ∧
      (specCheck s.mode w = 0 →
        ∃ i t, decode w = .ok i ∧ step s = exec i { s with host := rest } ∧ step s = .next t ∧
          t.errIll = s.errIll ∧ t.errOpnd = s.errOpnd ∧ t.errMode = s.errMode ∧
          respRejected t.respQ = false ∧ respCode t.respQ = 0)

/-- 30_encoding.md R62: encoding a command and decoding the word gives the command back, for every operand its
encoding admits. -/
def Obligations.DecodeOfEncode : Prop :=
  ∀ i : Instr, i.WellFormed → decode (encode i) = .ok i

/-- 30_encoding.md R62, R64: a word that decodes is the one word of a well-formed command. -/
def Obligations.EncodeOfDecode : Prop :=
  ∀ (w : PortWord) (i : Instr), decode w = .ok i → i.WellFormed ∧ encode i = w

/-- 30_encoding.md R61, R62: the words that decode are those that fit a row of the opcode table, and each decodes
to the command of its row; two rows never share a word. -/
def Obligations.DecodeMatchesOpcodeTable : Prop :=
  (∀ (w : PortWord) (i : Instr), decode w = .ok i → FitsRow w i) ∧
  (∀ (w : PortWord) (i : Instr), FitsRow w i → ∃ j, decode w = .ok j ∧ tableRow j = tableRow i)

/-- 30_encoding.md R62: one word of each family, written out from its bit pattern, decodes to its command, and
one word of each kind of R64 (b) and (c) is refused by name. -/
def Obligations.SpecWordsDecode : Prop :=
  decode 0b00000000000000000000000000000000#32 = .ok .nop ∧
  decode 0b00010000000000000000000000000000#32 = .ok .startEnc ∧
  decode 0b00100000000000000000000000000000#32 = .ok .startDec ∧
  decode 0b00110000000000000000000010110100#32 = .ok (.encByte 0xB4#8) ∧
  decode 0b01000000000000000000000000000000#32 = .ok .encEnd ∧
  decode 0b01010000000000000000000001010100#32 = .ok (.decSym 0x54#21) ∧
  decode 0b01100000000000000000000000000000#32 = .ok .decEnd ∧
  decode 0b01110000000000000000000001011010#32 = .ok (.alphaRd 90#7) ∧
  decode 0b10000000000111111111111111111111#32 = .ok (.revRd 0x1FFFFF#21) ∧
  decode 0b10010000000000000000000000000000#32 = .error .illegalOpcode ∧
  decode 0b01110000000000000000000001011011#32 = .error .reservedOperand ∧
  decode 0b00110000000000000000000100000000#32 = .error .reservedOperand

/-! ## The nine commands -/

/-- 41_control.md R93, NOP: its one word, every other word of its opcode reserved, legal in every mode, and no
state change but the response. -/
def Obligations.NopFollowsRule : Prop :=
  WordOf 0x00000000#32 .nop ∧
  (∀ w : PortWord, w.toNat / 2 ^ 28 = 0x0 → w.toNat % 2 ^ 28 ≠ 0 → ReservedWord w) ∧
  (∀ s : State, s.Legal → exec .nop s = .next (answered 0 s))

/-- 41_control.md R91, START_ENC: its one word, every other word of its opcode reserved, and in every mode a fresh
encode session with the error flags kept. -/
def Obligations.StartEncFollowsRule : Prop :=
  WordOf 0x10000000#32 .startEnc ∧
  (∀ w : PortWord, w.toNat / 2 ^ 28 = 0x1 → w.toNat % 2 ^ 28 ≠ 0 → ReservedWord w) ∧
  (∀ s : State, s.Legal → exec .startEnc s =
    .next (answered 0 { s with mode := .enc, acc := 0, bcnt := 0, lv := false, lval := 0 }))

/-- 41_control.md R92, START_DEC: its one word, every other word of its opcode reserved, and in every mode a fresh
decode session with the error flags kept. -/
def Obligations.StartDecFollowsRule : Prop :=
  WordOf 0x20000000#32 .startDec ∧
  (∀ w : PortWord, w.toNat / 2 ^ 28 = 0x2 → w.toNat % 2 ^ 28 ≠ 0 → ReservedWord w) ∧
  (∀ s : State, s.Legal → exec .startDec s =
    .next (answered 0 { s with mode := .dec, acc := 0, bcnt := 0, lv := false, lval := 0 }))

/-- 42_encoder.md R100, ENC_BYTE: its words and reserved words; outside an encode session it is rejected; within
one it appends the byte above the pending bits and, from 5 pending bits on, takes out one word and
answers its two symbols, low digit first. -/
def Obligations.EncByteFollowsRule : Prop :=
  (∀ n : Byte, WordOf (BitVec.ofNat 32 (0x30000000 + n.toNat)) (.encByte n)) ∧
  (∀ w : PortWord, w.toNat / 2 ^ 28 = 0x3 → w.toNat % 2 ^ 28 / 2 ^ 8 ≠ 0 → ReservedWord w) ∧
  (∀ (n : Byte) (s : State), s.Legal →
    let b := s.bcnt.toNat
    let v := s.acc.toNat + n.toNat * 2 ^ b
    let w := v % 2 ^ 13
    (s.mode ≠ .enc → exec (.encByte n) s = .next (rejected 3 s)) ∧
    (s.mode = .enc → b ≤ 4 → exec (.encByte n) s =
      .next (answered 0 { s with acc := BitVec.ofNat 21 v, bcnt := BitVec.ofNat 5 (b + 8) })) ∧
    (s.mode = .enc → 5 ≤ b → exec (.encByte n) s =
      .next (answered (0x20000 + 2 ^ 8 * entry (w / 91) + entry (w % 91))
        { s with acc := BitVec.ofNat 21 (v / 2 ^ 13), bcnt := BitVec.ofNat 5 (b - 5) })))

/-- 42_encoder.md R102 and R103, ENC_END: its one word, every other word of its opcode reserved; outside an encode
session it is rejected; within one it answers no symbol for no leftover bit, one for 1 to 6 and two for
7 to 12, and closes the session with nothing pending. -/
def Obligations.EncEndFollowsRule : Prop :=
  WordOf 0x40000000#32 .encEnd ∧
  (∀ w : PortWord, w.toNat / 2 ^ 28 = 0x4 → w.toNat % 2 ^ 28 ≠ 0 → ReservedWord w) ∧
  (∀ s : State, s.Legal →
    let b := s.bcnt.toNat
    let w := s.acc.toNat
    let closed : State := { s with mode := .idle, acc := 0, bcnt := 0 }
    (s.mode ≠ .enc → exec .encEnd s = .next (rejected 3 s)) ∧
    (s.mode = .enc → b = 0 → exec .encEnd s = .next (answered 0 closed)) ∧
    (s.mode = .enc → 1 ≤ b → b ≤ 6 → exec .encEnd s = .next (answered (0x10000 + entry (w % 91)) closed)) ∧
    (s.mode = .enc → 7 ≤ b → exec .encEnd s =
      .next (answered (0x20000 + 2 ^ 8 * entry (w / 91) + entry (w % 91)) closed)))

/-- 43_decoder.md R110, DEC_SYM: its words and reserved words; outside a decode session it is rejected; within one
it skips what is no symbol, holds a first digit, discards an overflow pair, and for any other pair
appends the word and answers one byte from 0 to 2 pending bits and two bytes from 3 to 7. -/
def Obligations.DecSymFollowsRule : Prop :=
  (∀ cp : CodePoint, WordOf (BitVec.ofNat 32 (0x50000000 + cp.toNat)) (.decSym cp)) ∧
  (∀ w : PortWord, w.toNat / 2 ^ 28 = 0x5 → w.toNat % 2 ^ 28 / 2 ^ 21 ≠ 0 → ReservedWord w) ∧
  (∀ (cp : CodePoint) (s : State), s.Legal → s.mode ≠ .dec →
    exec (.decSym cp) s = .next (rejected 3 s)) ∧
  (∀ (cp : CodePoint) (s : State), s.Legal → s.mode = .dec → NoSymbol cp →
    exec (.decSym cp) s = .next (answered 0 s)) ∧
  (∀ (cp : CodePoint) (d : Digit) (s : State), s.Legal → s.mode = .dec → SymbolOf cp d →
    let b := s.bcnt.toNat
    let w := 91 * d.val + s.lval.toNat
    let v := s.acc.toNat + w * 2 ^ b
    let unpaired : State := { s with lv := false, lval := 0 }
    (s.lv = false → exec (.decSym cp) s =
      .next (answered 0 { s with lv := true, lval := BitVec.ofNat 7 d.val })) ∧
    (s.lv = true → 8191 < w → exec (.decSym cp) s = .next (answered 0 unpaired)) ∧
    (s.lv = true → w ≤ 8191 → b ≤ 2 → exec (.decSym cp) s =
      .next (answered (0x10000 + v % 2 ^ 8)
        { unpaired with acc := BitVec.ofNat 21 (v / 2 ^ 8), bcnt := BitVec.ofNat 5 (b + 5) })) ∧
    (s.lv = true → w ≤ 8191 → 3 ≤ b → exec (.decSym cp) s =
      .next (answered (0x20000 + v % 2 ^ 16)
        { unpaired with acc := BitVec.ofNat 21 (v / 2 ^ 16), bcnt := BitVec.ofNat 5 (b - 3) })))

/-- 43_decoder.md R113, DEC_END: its one word, every other word of its opcode reserved; outside a decode session it
is rejected; within one it answers one byte exactly when a lone digit and at least one pending bit make
8 bits or more, and closes the session with nothing pending. -/
def Obligations.DecEndFollowsRule : Prop :=
  WordOf 0x60000000#32 .decEnd ∧
  (∀ w : PortWord, w.toNat / 2 ^ 28 = 0x6 → w.toNat % 2 ^ 28 ≠ 0 → ReservedWord w) ∧
  (∀ s : State, s.Legal →
    let b := s.bcnt.toNat
    let v := s.acc.toNat + s.lval.toNat * 2 ^ b
    let closed : State := { s with mode := .idle, acc := 0, bcnt := 0, lv := false, lval := 0 }
    (s.mode ≠ .dec → exec .decEnd s = .next (rejected 3 s)) ∧
    (s.mode = .dec → s.lv = false → exec .decEnd s = .next (answered 0 closed)) ∧
    (s.mode = .dec → s.lv = true → b = 0 → exec .decEnd s = .next (answered 0 closed)) ∧
    (s.mode = .dec → s.lv = true → 1 ≤ b → exec .decEnd s =
      .next (answered (0x10000 + v % 2 ^ 8) closed)))

/-- 44_rom_access.md R120, ALPHA_RD: its words and reserved words, an index of 91 to 127 among them; legal in every
mode; it answers the entry of the alphabet and changes nothing else. -/
def Obligations.AlphaRdFollowsRule : Prop :=
  (∀ idx : BitVec 7, idx.toNat ≤ 90 → WordOf (BitVec.ofNat 32 (0x70000000 + idx.toNat)) (.alphaRd idx)) ∧
  (∀ w : PortWord, w.toNat / 2 ^ 28 = 0x7 →
    w.toNat % 2 ^ 28 / 2 ^ 7 ≠ 0 ∨ 90 < w.toNat % 2 ^ 7 → ReservedWord w) ∧
  (∀ (idx : BitVec 7) (s : State), s.Legal → idx.toNat ≤ 90 →
    exec (.alphaRd idx) s = .next (answered (0x10000 + entry idx.toNat) s))

/-- 44_rom_access.md R121, REV_RD: its words and reserved words; legal in every mode; it answers the digit of a
symbol and the sentinel 0x7F for any other code point, and changes nothing else. -/
def Obligations.RevRdFollowsRule : Prop :=
  (∀ cp : CodePoint, WordOf (BitVec.ofNat 32 (0x80000000 + cp.toNat)) (.revRd cp)) ∧
  (∀ w : PortWord, w.toNat / 2 ^ 28 = 0x8 → w.toNat % 2 ^ 28 / 2 ^ 21 ≠ 0 → ReservedWord w) ∧
  (∀ (cp : CodePoint) (s : State), s.Legal → NoSymbol cp →
    exec (.revRd cp) s = .next (answered (0x10000 + 0x7F) s)) ∧
  (∀ (cp : CodePoint) (d : Digit) (s : State), s.Legal → SymbolOf cp d →
    exec (.revRd cp) s = .next (answered (0x10000 + d.val) s))

/-! ## Reset, waiting, and the states of a run -/

/-- 70_reset_and_hazards.md R150: reset puts every register at 0 from any state whatever, with STATUS and the
response port reading 0. -/
def Obligations.ResetFromAnyState : Prop :=
  ∀ (s : State) (rest : List HostAction), s.host = .reset :: rest →
    ∃ t, step s = .next t ∧
      t.mode = .idle ∧ t.acc = 0 ∧ t.bcnt = 0 ∧ t.lv = false ∧ t.lval = 0 ∧
      t.errIll = false ∧ t.errOpnd = false ∧ t.errMode = false ∧ t.respQ = 0 ∧
      t.status = 0 ∧ t.respPort = 0

/-- 60_exceptions.md R145: without a command the block holds its state. That a step may find no command is the
model's reading (log entry 5). -/
def Obligations.WaitingHoldsState : Prop := ∀ s : State, s.host = [] → step s = .next s

/-- 10_state.md R21, 70_reset_and_hazards.md R158: the block takes the host's actions one at a time, in order; none is
skipped or repeated; `resp_valid` is high after a command and low after reset. The queue that holds the
actions is the model's own (log entry 3). -/
def Obligations.HostActionsAreTakenInOrder : Prop :=
  ∀ (s : State) (act : HostAction) (rest : List HostAction), s.Legal → s.host = act :: rest →
    ∃ t, step s = .next t ∧ t.host = rest ∧
      (act = .reset → t.respValidPort = false ∧ t.cmdReady = true) ∧
      (∀ w, act = .command w → s.cmdPort = some w ∧ s.cmdValid = true ∧ s.rstPort = false ∧
        t.respValidPort = true)

/-- 10_state.md R28, R29 at the reset state. -/
def Obligations.ResetIsLegal : Prop := State.reset.Legal

/-- 10_state.md R28, R29: every step keeps the bounds of the accumulator, the bit count and the pending digit. -/
def Obligations.StepKeepsLegal : Prop :=
  ∀ s t : State, s.Legal → step s = .next t → t.Legal

/-- 10_state.md R28 and R29, of every reachable state. -/
def Obligations.ReachableStatesMeetTheBounds : Prop :=
  ∀ s : State, Reachable s →
    s.acc.toNat < 2 ^ s.bcnt.toNat ∧
    (s.mode = .idle → s.acc = 0 ∧ s.bcnt = 0 ∧ s.lv = false ∧ s.lval = 0) ∧
    (s.mode = .enc → s.bcnt.toNat ≤ 12 ∧ s.lv = false ∧ s.lval = 0) ∧
    (s.mode = .dec → s.bcnt.toNat ≤ 7 ∧ (s.lv = true → s.lval.toNat ≤ 90) ∧
      (s.lv = false → s.lval = 0))

/-- 30_encoding.md R68, 60_exceptions.md R146: no reachable state and no host action makes a step stop. -/
def Obligations.ReachableStepsContinue : Prop := ∀ s : State, Reachable s → Continues (step s)

/-- The model's choice for the states that 10_state.md R31 leaves open (log entry 2): a command issued in a
state that breaks R28 or R29 is refused, whatever the word. -/
def Obligations.UnreachableStatesAreRefused : Prop :=
  ∀ (s : State) (w : PortWord) (rest : List HostAction), ¬ s.Legal → s.host = .command w :: rest →
    step s = .refused .unreachableState

/-! ## The datapath -/

/-- 40_datapath.md R80: `Split` gives the remainder and the quotient by 91. -/
def Obligations.SplitIsRemainderAndQuotient : Prop :=
  ∀ w : StreamWord, (split w).1.val = w.toNat % 91 ∧ (split w).2.val = w.toNat / 91 ∧
    ((split w).2.val = 90 ↔ w.toNat = 8190 ∨ w.toNat = 8191)

/-- 40_datapath.md R81: `Combine` gives `91 * hi + lo`, and OVERFLOW exactly for a high digit 90 with a low digit of
2 or more, which is 89 of the 8281 pairs. -/
def Obligations.CombineOverflowsOnHighNinety : Prop :=
  (∀ (lo hi : Digit) (w : StreamWord), combine lo.val hi.val = some w → w.toNat = 91 * hi.val + lo.val) ∧
  (∀ lo hi : Digit, combine lo.val hi.val = none ↔ hi.val = 90 ∧ 2 ≤ lo.val) ∧
  {p : Digit × Digit | combine p.1.val p.2.val = none}.ncard = 89

/-- 40_datapath.md R82: `Split` and `Combine` invert each other on the valid range, whose pairs are as many as the
13-bit words. -/
def Obligations.SplitAndCombineInvert : Prop :=
  (∀ w : StreamWord, combine (split w).1.val (split w).2.val = some w) ∧
  (∀ (lo hi : Digit) (w : StreamWord), combine lo.val hi.val = some w → split w = (lo, hi)) ∧
  {p : Digit × Digit | combine p.1.val p.2.val ≠ none}.ncard = 8192

/-- 40_datapath.md R83: under its requirements, `Ins` is an exact append that fits in the new bit count. -/
def Obligations.InsAppendsExactly : Prop :=
  ∀ (a : Accum) (v : BitVec 21) (k : Nat),
    v.toNat < 2 ^ k → a.acc.toNat < 2 ^ a.count → a.count + k ≤ 20 →
      (a.ins v k).acc.toNat = a.acc.toNat + v.toNat * 2 ^ a.count ∧
      (a.ins v k).acc.toNat < 2 ^ (a.ins v k).count ∧ (a.ins v k).count = a.count + k

/-- 40_datapath.md R84: `Ext` gives the `k` oldest bits and leaves the others. -/
def Obligations.ExtRemovesOldestBits : Prop :=
  ∀ (a : Accum) (k : Nat), k ≤ a.count →
    (a.low k).toNat = a.acc.toNat % 2 ^ k ∧ (a.drop k).acc.toNat = a.acc.toNat / 2 ^ k ∧
      (a.drop k).count + k = a.count

/-- 10_state.md R30: during a command the bit count is at most 20 and the accumulator below 2^20, so that no bit
is lost; a lone digit makes at most 14 bits. -/
def Obligations.CommandBitsStayWithinTwenty : Prop :=
  ∀ s : State, s.Legal →
    (s.mode = .enc → ∀ n : Byte,
      (s.accum.ins (byteBits n) 8).count ≤ 20 ∧ (s.accum.ins (byteBits n) 8).acc.toNat < 2 ^ 20 ∧
        (s.accum.ins (byteBits n) 8).acc.toNat = s.acc.toNat + n.toNat * 2 ^ s.bcnt.toNat) ∧
    (s.mode = .dec → ∀ w : StreamWord,
      (s.accum.ins (w.setWidth 21) 13).count ≤ 20 ∧
        (s.accum.ins (w.setWidth 21) 13).acc.toNat < 2 ^ 20 ∧
        (s.accum.ins (w.setWidth 21) 13).acc.toNat = s.acc.toNat + w.toNat * 2 ^ s.bcnt.toNat) ∧
    (s.mode = .dec → (loneAccum s).count ≤ 14 ∧ (loneAccum s).acc.toNat < 2 ^ 14 ∧
      (loneAccum s).acc.toNat = s.acc.toNat + s.lval.toNat * 2 ^ s.bcnt.toNat)

/-- 43_decoder.md R111: after a discarded pair the drain loop would not run. -/
def Obligations.DrainAfterDiscardIsIdle : Prop :=
  ∀ (s : State) (rounds : Nat), s.Legal → s.mode = .dec → drainBytes rounds s.accum = ([], s.accum)

/-- 70_reset_and_hazards.md R161, 42_encoder.md R100 (ii), 43_decoder.md R110 (iv): the encoder's loop runs at most
once and the decoder's once or twice, and more rounds than the model allows would change nothing. -/
def Obligations.LoopsRunAtMostTwice : Prop :=
  ∀ s : State, s.Legal →
    (s.mode = .enc → ∀ (n : Byte) (more : Nat),
      drainWords (3 + more) (s.accum.ins (byteBits n) 8) = drainWords 1 (s.accum.ins (byteBits n) 8) ∧
      (drainWords (3 + more) (s.accum.ins (byteBits n) 8)).1.length ≤ 1) ∧
    (s.mode = .dec → ∀ (w : StreamWord) (more : Nat),
      drainBytes (5 + more) (s.accum.ins (w.setWidth 21) 13) =
        drainBytes 2 (s.accum.ins (w.setWidth 21) 13) ∧
      1 ≤ (drainBytes (5 + more) (s.accum.ins (w.setWidth 21) 13)).1.length ∧
      (drainBytes (5 + more) (s.accum.ins (w.setWidth 21) 13)).1.length ≤ 2)

/-! ## The ROMs -/

/-- 20_memory.md R41: what the alphabet ROM reads are 91 distinct candidate codes, and exactly one candidate is
left out. -/
def Obligations.AlphabetConforms : Prop :=
  (∀ i j : Digit, alphaRead Config.alpha i = alphaRead Config.alpha j → i = j) ∧
  (∀ i : Digit, 0x21 ≤ (alphaRead Config.alpha i).toNat ∧ (alphaRead Config.alpha i).toNat ≤ 0x7E ∧
    alphaRead Config.alpha i ≠ 0x27#7 ∧ alphaRead Config.alpha i ≠ 0x5C#7) ∧
  (∃! c : Code, (0x21 ≤ c.toNat ∧ c.toNat ≤ 0x7E ∧ c ≠ 0x27#7 ∧ c ≠ 0x5C#7) ∧
    ∀ i : Digit, alphaRead Config.alpha i ≠ c)

/-- 20_memory.md R42: the twenty-eight entries that every conforming alphabet has. -/
def Obligations.PinnedEntriesRead : Prop :=
  ∀ (A : Alphabet) (i : Digit),
    (i.val = 0 → alphaRead A i = 0x21#7 ∧ A.code i = 0x21#7) ∧
    (5 ≤ i.val → i.val ≤ 30 →
      (alphaRead A i).toNat + i.val = 0x7F ∧ (A.code i).toNat + i.val = 0x7F) ∧
    (i.val = 43 → alphaRead A i = 0x54#7 ∧ A.code i = 0x54#7)

/-- 20_memory.md R44: the entries of `ALPHA_DEFAULT`, which leaves out 0x24. -/
def Obligations.DefaultAlphabetEntries : Prop :=
  ∀ i : Digit,
    alphaRead Alphabet.default i =
      (if i.val = 0 then 0x21#7 else if i.val = 35 then 0x22#7 else if i.val = 88 then 0x23#7
       else 0x7F#7 ^^^ BitVec.ofNat 7 i.val) ∧
    alphaRead Alphabet.default i ≠ 0x24#7

/-- 20_memory.md R45: the reverse table inverts every conforming alphabet, and exactly 91 of its 128 entries are
digits. -/
def Obligations.ReverseTableInvertsAlphabet : Prop :=
  ∀ A : Alphabet,
    (∀ i : Digit, revRead A (A.code i) = BitVec.ofNat 7 i.val) ∧
    (∀ c : Code, (∀ i : Digit, A.code i ≠ c) → revRead A c = 0x7F#7) ∧
    (∀ (c : Code) (i : Digit), revRead A c = BitVec.ofNat 7 i.val → A.code i = c) ∧
    {c : Code | (revRead A c).toNat ≤ 90}.ncard = 91 ∧ {c : Code | revRead A c = 0x7F#7}.ncard = 37

/-- 20_memory.md R48: `SymDigit` answers the digit whose entry equals the code point, and nothing for any other
code point, those above 127 among them. -/
def Obligations.SymDigitClassifies : Prop :=
  ∀ (A : Alphabet) (cp : CodePoint),
    (127 < cp.toNat → symDigit A cp = none) ∧
    (cp.toNat ≤ 127 → revRead A (BitVec.ofNat 7 cp.toNat) = 0x7F#7 → symDigit A cp = none) ∧
    (cp.toNat ≤ 127 → revRead A (BitVec.ofNat 7 cp.toNat) ≠ 0x7F#7 →
      (symDigit A cp).map (·.val) = some (revRead A (BitVec.ofNat 7 cp.toNat)).toNat)

/-- 44_rom_access.md R122: the alphabet invariant, checked at the ports from any state of a run. -/
def Obligations.RomInvariantAtPorts : Prop :=
  ∀ s : State, s.Legal →
    (∀ i : Digit, ∃ t u, issue (BitVec.ofNat 32 (0x70000000 + i.val)) s = .next t ∧
      issue (BitVec.ofNat 32 (0x80000000 + (respOut0 t.respQ).toNat)) t = .next u ∧
      (respOut0 u.respQ).toNat = i.val) ∧
    (∀ (i j : Digit) (t u : State), issue (BitVec.ofNat 32 (0x70000000 + i.val)) s = .next t →
      issue (BitVec.ofNat 32 (0x70000000 + j.val)) s = .next u →
      respOut0 t.respQ = respOut0 u.respQ → i = j) ∧
    {c : Code | ∃ t, issue (BitVec.ofNat 32 (0x80000000 + c.toNat)) s = .next t ∧
      respOut0 t.respQ ≠ 0x7F#8}.ncard = 91

/-! ## The ports -/

/-- 30_encoding.md R66: the fields of the response word of an output list of at most two items. -/
def Obligations.ResponseLayout : Prop :=
  ∀ (out : List Byte) (rej : Bool) (e : BitVec 2), out.length ≤ 2 →
    let r := respWord out rej e
    respOut0 r = out[0]?.getD 0 ∧ respOut1 r = out[1]?.getD 0 ∧ respCount r = out.length ∧
      respRejected r = rej ∧ respCode r = e ∧ r.toNat < 2 ^ 21 ∧ respItems r = out

/-- 30_encoding.md R66: in every reachable state the response word has the shape of the rule. -/
def Obligations.ReachableResponsesAreWellShaped : Prop :=
  ∀ s : State, Reachable s → ResponseShape s.respQ

/-- 30_encoding.md R67: the fields of the STATUS word, in every state; `ACC` is not on the port, and after reset
STATUS reads 0. -/
def Obligations.StatusLayout : Prop :=
  State.reset.status = 0 ∧
  (∀ (s : State) (a : BitVec 21), ({ s with acc := a } : State).status = s.status) ∧
  ∀ s : State,
    s.status.toNat % 2 ^ 2 = (match s.mode with | .idle => 0 | .enc => 1 | .dec => 2) ∧
    s.status.toNat / 2 ^ 2 % 2 ^ 5 = s.bcnt.toNat ∧ s.status.getLsbD 7 = s.lv ∧
    s.status.toNat / 2 ^ 8 % 2 ^ 7 = s.lval.toNat ∧ s.status.getLsbD 15 = false ∧
    s.status.getLsbD 16 = s.errIll ∧ s.status.getLsbD 17 = s.errOpnd ∧
    s.status.getLsbD 18 = s.errMode ∧ s.status.toNat < 2 ^ 19

/-! ## Rules over all commands -/

/-- 10_state.md R26, 60_exceptions.md R138: no step but reset clears an error flag. -/
def Obligations.ErrorFlagsAreSticky : Prop :=
  ∀ s t : State, s.rstPort = false → step s = .next t →
    (s.errIll = true → t.errIll = true) ∧ (s.errOpnd = true → t.errOpnd = true) ∧
      (s.errMode = true → t.errMode = true)

/-- 10_state.md R26, R27: neither the error flags nor the latest response affect how later commands execute: of
two states that agree on everything else, a step takes both to states that agree again, with the same
response to a command. -/
def Obligations.FlagsDoNotSteerExecution : Prop :=
  ∀ s s' t : State, SameSession s s' → step s = .next t →
    ∃ t', step s' = .next t' ∧ SameSession t t' ∧ (s.cmdValid = true → t.respQ = t'.respQ)

/-- 10_state.md R20, column "written by": each register changes only by the commands the table names. -/
def Obligations.RegistersChangeOnlyByTheirCommands : Prop :=
  ∀ (i : Instr) (s t : State), exec i s = .next t →
    (t.mode ≠ s.mode → i = .startEnc ∨ i = .startDec ∨ i = .encEnd ∨ i = .decEnd) ∧
    (t.acc ≠ s.acc ∨ t.bcnt ≠ s.bcnt → i = .startEnc ∨ i = .startDec ∨ i = .encEnd ∨ i = .decEnd ∨
      (∃ n, i = .encByte n) ∨ (∃ cp, i = .decSym cp)) ∧
    (t.lv ≠ s.lv ∨ t.lval ≠ s.lval → i = .startEnc ∨ i = .startDec ∨ i = .decEnd ∨
      (∃ cp, i = .decSym cp)) ∧
    (t.errIll ≠ s.errIll ∨ t.errOpnd ≠ s.errOpnd ∨ t.errMode ≠ s.errMode →
      respRejected t.respQ = true) ∧
    t.respValid = true ∧ t.host = s.host

/-- 41_control.md R90: NOP, ALPHA_RD, REV_RD and rejected commands may come anywhere in a run of words and do not
affect its output. -/
def Obligations.WordsOutsideSessionsDoNotAffectOutput : Prop :=
  ∀ (s : State) (before after : List PortWord) (x : PortWord), s.Legal →
    (∀ rs t, runWords before s = some (rs, t) → OutsideSession x t) →
      ∃ out, sessionOutput (before ++ x :: after) s = some out ∧
        sessionOutput (before ++ after) s = some out

/-! ## Sessions -/

/-- 42_encoder.md R101: when ENC_BYTE emits a pair of symbols, over an encode session of any length. -/
def Obligations.EncodePairTiming : Prop :=
  ∀ (s : State) (data : List Byte), s.Legal →
    ∃ rs t, runWords ((Instr.startEnc :: encBytes data).map encode) s = some (rs, t) ∧
      t.bcnt.toNat = 8 * data.length % 13 ∧ rs.length = data.length + 1 ∧
      ∀ k, 1 ≤ k → k ≤ data.length →
        rs[k]?.map respCount = some (if 8 * (k - 1) / 13 < 8 * k / 13 then 2 else 0) ∧
        (8 * (k - 1) / 13 < 8 * k / 13 ↔ k % 13 ∈ [2, 4, 5, 7, 9, 10, 12, 0])

/-- 42_encoder.md R104: the output of an encode session is the source's `encode` of its bytes, for every alphabet
and from every state a session can start in. -/
def Obligations.EncodeSessionIsSourceEncode : Prop :=
  ∀ (s : State) (data : List Byte), s.Legal →
    programOutput (encodeSession data) s =
      some ((sourceEncode Config.alpha data).map fun c => c.setWidth 8)

/-- 42_encoder.md R105: the exact length of an encode session's output, and its bounds. -/
def Obligations.EncodeOutputLength : Prop :=
  ∀ (s : State) (data : List Byte), s.Legal →
    ∃ out, programOutput (encodeSession data) s = some out ∧
      out.length = 2 * (8 * data.length / 13) + flushLength (8 * data.length % 13) ∧
      16 * data.length ≤ 13 * out.length ∧ out.length ≤ 2 * data.length

/-- 20_memory.md R50, R51: an encode session is the bit stream of its bytes, least significant bit first, cut into
13-bit words whose digits go out low digit first. -/
def Obligations.EncodeStreamIsLittleEndian : Prop :=
  ∀ (s : State) (data : List Byte), s.Legal →
    programOutput (encodeSession data) s = some (streamSymbols (byteStream data) data.length)

/-- 43_decoder.md R114: the output of a decode session is the source's `decode` of its text. -/
def Obligations.DecodeSessionIsSourceDecode : Prop :=
  ∀ (s : State) (text : List CodePoint), s.Legal →
    programOutput (decodeSession text) s = some (sourceDecode Config.alpha text)

/-- 43_decoder.md R115: the exact length of a decode session's output, which is at most the number of valid symbols
and so at most the number of code points. -/
def Obligations.DecodeOutputLength : Prop :=
  ∀ (s : State) (text : List CodePoint), s.Legal →
    ∃ out, programOutput (decodeSession text) s = some out ∧
      out.length = decodedLength (digitsOf text) ∧
      keptPairs (digitsOf text) ≤ (digitsOf text).length / 2 ∧
      out.length ≤ (digitsOf text).length ∧ (digitsOf text).length ≤ text.length

/-- 20_memory.md R52: a decode session's output is the bit stream of its kept words and its lone last digit, least
significant bit first, cut into bytes. -/
def Obligations.DecodeStreamIsLittleEndian : Prop :=
  ∀ (s : State) (text : List CodePoint), s.Legal →
    programOutput (decodeSession text) s =
      some ((List.range (decodedLength (digitsOf text))).map fun k =>
        BitVec.ofNat 8 (digitStream (digitsOf text) / 2 ^ (8 * k)))

/-- 43_decoder.md R114: decoding an encode session's output returns its bytes, for every byte sequence and every
conforming alphabet. -/
def Obligations.SessionRoundTrip : Prop :=
  ∀ (s s' : State) (data : List Byte), s.Legal → s'.Legal →
    ∃ out, programOutput (encodeSession data) s = some out ∧
      programOutput (decodeSession (out.map fun item => item.setWidth 21)) s' = some data

/-- 43_decoder.md R112: the source's edge-case table, row by row. The rows on a lone last symbol, on the words 8190 and
8191 and on a discarded pair are stated after any text `before` of whole pairs, so with any bits pending: a
lone symbol adds a byte only where seven more bits make eight; the words are read back from the output with
all their 13 bits; a discarded pair leaves the pending bits as they are, and the text decodes as without it. -/
def Obligations.DecoderEdgeCases : Prop :=
  ∀ s : State, s.Legal →
    programOutput (decodeSession []) s = some [] ∧
    (∀ text : List CodePoint, (∀ cp ∈ text, NoSymbol cp) →
      programOutput (decodeSession text) s = some []) ∧
    (∀ (cp : CodePoint) (d : Digit), SymbolOf cp d → programOutput (decodeSession [cp]) s = some []) ∧
    (∀ (zero cp : CodePoint) (d : Digit), SymbolOf zero 0 → SymbolOf cp d →
      programOutput (decodeSession [zero, zero, cp]) s = some [0#8, BitVec.ofNat 8 (2 ^ 5 * d.val)]) ∧
    (∀ (before : List CodePoint) (cp : CodePoint) (d : Digit), WholePairs before → SymbolOf cp d →
      ∃ out, programOutput (decodeSession before) s = some out ∧
        programOutput (decodeSession (before ++ [cp])) s =
          some (out ++ if pendingBits before + 7 < 8 then []
            else [BitVec.ofNat 8 (digitStream (digitsOf before) / 2 ^ (8 * out.length)
              + 2 ^ pendingBits before * d.val)])) ∧
    (∀ lo hi : CodePoint, SymbolOf lo 0 → SymbolOf hi 90 →
      programOutput (decodeSession [lo, hi]) s = some [0xFE#8]) ∧
    (∀ lo hi : CodePoint, SymbolOf lo 1 → SymbolOf hi 90 →
      programOutput (decodeSession [lo, hi]) s = some [0xFF#8]) ∧
    (∀ (lo hi lo' hi' : CodePoint) (d a b : Digit), SymbolOf lo d → d.val ≤ 1 → SymbolOf hi 90 →
      SymbolOf lo' a → SymbolOf hi' b → 91 * b.val + a.val ≤ 8191 →
        programOutput (decodeSession [lo, hi, lo', hi']) s =
          some [BitVec.ofNat 8 (0xFE + d.val), BitVec.ofNat 8 (0x1F + 2 ^ 5 * (91 * b.val + a.val)),
            BitVec.ofNat 8 ((91 * b.val + a.val) / 2 ^ 3)]) ∧
    (∀ (before rest : List CodePoint) (lo hi : CodePoint) (d : Digit), WholePairs before →
      SymbolOf lo d → d.val ≤ 1 → SymbolOf hi 90 →
      13 * keptPairs (digitsOf before) + 13 ≤ 8 * decodedLength (digitsOf (before ++ lo :: hi :: rest)) →
        ∃ out, programOutput (decodeSession (before ++ lo :: hi :: rest)) s = some out ∧
          byteStream out / 2 ^ (13 * keptPairs (digitsOf before)) % 2 ^ 13 = 8190 + d.val) ∧
    (∀ (before rest : List CodePoint) (lo hi : CodePoint) (d : Digit), WholePairs before →
      SymbolOf lo d → 2 ≤ d.val → SymbolOf hi 90 →
        programOutput (decodeSession (before ++ lo :: hi :: rest)) s =
          programOutput (decodeSession (before ++ rest)) s)

/-- 70_reset_and_hazards.md R156: without its END, a session's output is a prefix of `encode(D)` or `decode(T)`. -/
def Obligations.UnendedSessionsArePrefixes : Prop :=
  ∀ s : State, s.Legal →
    (∀ data : List Byte, ∃ out, programOutput (.startEnc :: encBytes data) s = some out ∧
      out <+: (sourceEncode Config.alpha data).map fun c => c.setWidth 8) ∧
    (∀ text : List CodePoint, ∃ out, programOutput (.startDec :: decStr text) s = some out ∧
      out <+: sourceDecode Config.alpha text)

/-! ## Several instances, and the assembler -/

/-- 00_scope.md R7, 20_memory.md R57, 60_exceptions.md R143: a step of one instance leaves the others alone, and
the order of two instances' steps is unobservable. -/
def Obligations.InstancesAreIndependent : Prop :=
  (∀ (p q : Platform) (k : Nat), stepInstance p k = .next q →
    q.length = p.length ∧ (∀ j, j ≠ k → q[j]? = p[j]?) ∧
      (∀ s, p[k]? = some s → ∃ t, step s = .next t ∧ q[k]? = some t)) ∧
  (∀ (p q r : Platform) (j k : Nat), j ≠ k → stepInstance p j = .next q → stepInstance q k = .next r →
    ∃ q', stepInstance p k = .next q' ∧ stepInstance q' j = .next r)

/-- 30_encoding.md R69 (a) to (c): of every decimal operand an assembler makes the whole operand or refuses the
line; it never truncates one. -/
def Obligations.AssemblerTakesOperandsWhole : Prop :=
  ∀ n : Nat,
    assembleLine (numberLine .encByte n) =
      (if n ≤ 255 then .ok [encode (.encByte (BitVec.ofNat 8 n))] else .error .operandOutOfRange) ∧
    assembleLine (numberLine .decSym n) =
      (if n ≤ 0x1FFFFF then .ok [encode (.decSym (BitVec.ofNat 21 n))]
       else .error .operandOutOfRange) ∧
    assembleLine (numberLine .alphaRd n) =
      (if n ≤ 90 then .ok [encode (.alphaRd (BitVec.ofNat 7 n))] else .error .operandOutOfRange) ∧
    assembleLine (numberLine .revRd n) =
      (if n ≤ 0x1FFFFF then .ok [encode (.revRd (BitVec.ofNat 21 n))] else .error .operandOutOfRange)

end
end

