-- ==== Sys2Proof/Laws/Datapath.lean ====
section
/-! SUPPORT. Laws/Datapath.lean: the small facts of the accumulator primitives and the two drain loops. -/

namespace Sys2Proof.Machine

@[simp] theorem Accum.ins_count (a : Accum) (v : BitVec 21) (k : Nat) : (a.ins v k).count = a.count + k := rfl

@[simp] theorem Accum.drop_count (a : Accum) (k : Nat) : (a.drop k).count = a.count - k := rfl

theorem Accum.low_toNat (a : Accum) (k : Nat) : (a.low k).toNat = a.acc.toNat % 2 ^ k := by
  simp [Accum.low]

theorem Accum.drop_toNat (a : Accum) (k : Nat) : (a.drop k).acc.toNat = a.acc.toNat / 2 ^ k := by
  simp [Accum.drop, Nat.shiftRight_eq_div_pow]

/-- R84: what is left still fits in its bit count. -/
theorem Accum.drop_fits {a : Accum} {k : Nat} (h : a.acc.toNat < 2 ^ a.count) (hk : k ≤ a.count) :
    (a.drop k).acc.toNat < 2 ^ (a.drop k).count := by
  rw [Accum.drop_toNat, Accum.drop_count]
  apply Nat.div_lt_of_lt_mul
  rwa [← Nat.pow_add, Nat.add_sub_cancel' hk]

/-! ## The loops -/

theorem drainWords_stops {a : Accum} (h : a.count < 13) (rounds : Nat) :
    drainWords rounds a = ([], a) := by
  cases rounds with
  | zero => rfl
  | succ k => rw [drainWords, if_neg (by simpa using h)]

theorem drainWords_round {a : Accum} (h : 13 ≤ a.count) (rounds : Nat) :
    drainWords (rounds + 1) a =
      (a.low 13 :: (drainWords rounds (a.drop 13)).1, (drainWords rounds (a.drop 13)).2) := by
  rw [drainWords, if_pos (by simpa using h)]

theorem drainBytes_stops {a : Accum} (h : a.count < 8) (rounds : Nat) :
    drainBytes rounds a = ([], a) := by
  cases rounds with
  | zero => rfl
  | succ k => rw [drainBytes, if_neg (by simpa using h)]

theorem drainBytes_round {a : Accum} (h : 8 ≤ a.count) (rounds : Nat) :
    drainBytes (rounds + 1) a =
      (a.low 8 :: (drainBytes rounds (a.drop 8)).1, (drainBytes rounds (a.drop 8)).2) := by
  rw [drainBytes, if_pos (by simpa using h)]

end Sys2Proof.Machine
end

