-- ==== Sys2Proof/Laws/Decode.lean ====
section
/-! SUPPORT. Laws/Decode.lean: the fields of a command word as numbers (R60), and of an encoded command. -/

namespace Sys2Proof

theorem opField_toNat (w : PortWord) : (opField w).toNat = w.toNat / 2 ^ 28 := by
  have := w.isLt
  simp only [opField, BitVec.extractLsb'_toNat, Nat.shiftRight_eq_div_pow]
  omega

theorem rsvField_toNat (w : PortWord) : (rsvField w).toNat = w.toNat / 2 ^ 21 % 2 ^ 7 := by
  simp [rsvField, Nat.shiftRight_eq_div_pow]

theorem argField_toNat (w : PortWord) : (argField w).toNat = w.toNat % 2 ^ 21 := by
  simp [argField]

end Sys2Proof
end

