-- ==== Sys2Proof/Laws/State.lean ====
section
/-! SUPPORT. Laws/State.lean: what each register write leaves in each field, one lemma a field and update, all true
by rfl, so that no proof unfolds a record update. -/

namespace Sys2Proof.Machine

/-! ## `State.setMode` -/

@[simp] theorem State.setMode_mode (s : State) (m : Mode) :
    (s.setMode m).mode = m := rfl

@[simp] theorem State.setMode_acc (s : State) (m : Mode) :
    (s.setMode m).acc = s.acc := rfl

@[simp] theorem State.setMode_bcnt (s : State) (m : Mode) :
    (s.setMode m).bcnt = s.bcnt := rfl

@[simp] theorem State.setMode_lv (s : State) (m : Mode) :
    (s.setMode m).lv = s.lv := rfl

@[simp] theorem State.setMode_lval (s : State) (m : Mode) :
    (s.setMode m).lval = s.lval := rfl

@[simp] theorem State.setMode_errIll (s : State) (m : Mode) :
    (s.setMode m).errIll = s.errIll := rfl

@[simp] theorem State.setMode_errOpnd (s : State) (m : Mode) :
    (s.setMode m).errOpnd = s.errOpnd := rfl

@[simp] theorem State.setMode_errMode (s : State) (m : Mode) :
    (s.setMode m).errMode = s.errMode := rfl

@[simp] theorem State.setMode_respQ (s : State) (m : Mode) :
    (s.setMode m).respQ = s.respQ := rfl

@[simp] theorem State.setMode_respValid (s : State) (m : Mode) :
    (s.setMode m).respValid = s.respValid := rfl

@[simp] theorem State.setMode_host (s : State) (m : Mode) :
    (s.setMode m).host = s.host := rfl

/-! ## `State.setAccum` -/

@[simp] theorem State.setAccum_mode (s : State) (a : Accum) :
    (s.setAccum a).mode = s.mode := rfl

@[simp] theorem State.setAccum_acc (s : State) (a : Accum) :
    (s.setAccum a).acc = a.acc := rfl

@[simp] theorem State.setAccum_bcnt (s : State) (a : Accum) :
    (s.setAccum a).bcnt = BitVec.ofNat 5 a.count := rfl

@[simp] theorem State.setAccum_lv (s : State) (a : Accum) :
    (s.setAccum a).lv = s.lv := rfl

@[simp] theorem State.setAccum_lval (s : State) (a : Accum) :
    (s.setAccum a).lval = s.lval := rfl

@[simp] theorem State.setAccum_errIll (s : State) (a : Accum) :
    (s.setAccum a).errIll = s.errIll := rfl

@[simp] theorem State.setAccum_errOpnd (s : State) (a : Accum) :
    (s.setAccum a).errOpnd = s.errOpnd := rfl

@[simp] theorem State.setAccum_errMode (s : State) (a : Accum) :
    (s.setAccum a).errMode = s.errMode := rfl

@[simp] theorem State.setAccum_respQ (s : State) (a : Accum) :
    (s.setAccum a).respQ = s.respQ := rfl

@[simp] theorem State.setAccum_respValid (s : State) (a : Accum) :
    (s.setAccum a).respValid = s.respValid := rfl

@[simp] theorem State.setAccum_host (s : State) (a : Accum) :
    (s.setAccum a).host = s.host := rfl

/-! ## `State.setPending` -/

@[simp] theorem State.setPending_mode (s : State) (d : Digit) :
    (s.setPending d).mode = s.mode := rfl

@[simp] theorem State.setPending_acc (s : State) (d : Digit) :
    (s.setPending d).acc = s.acc := rfl

@[simp] theorem State.setPending_bcnt (s : State) (d : Digit) :
    (s.setPending d).bcnt = s.bcnt := rfl

@[simp] theorem State.setPending_lv (s : State) (d : Digit) :
    (s.setPending d).lv = true := rfl

@[simp] theorem State.setPending_lval (s : State) (d : Digit) :
    (s.setPending d).lval = d.bits := rfl

@[simp] theorem State.setPending_errIll (s : State) (d : Digit) :
    (s.setPending d).errIll = s.errIll := rfl

@[simp] theorem State.setPending_errOpnd (s : State) (d : Digit) :
    (s.setPending d).errOpnd = s.errOpnd := rfl

@[simp] theorem State.setPending_errMode (s : State) (d : Digit) :
    (s.setPending d).errMode = s.errMode := rfl

@[simp] theorem State.setPending_respQ (s : State) (d : Digit) :
    (s.setPending d).respQ = s.respQ := rfl

@[simp] theorem State.setPending_respValid (s : State) (d : Digit) :
    (s.setPending d).respValid = s.respValid := rfl

@[simp] theorem State.setPending_host (s : State) (d : Digit) :
    (s.setPending d).host = s.host := rfl

/-! ## `State.clearPending` -/

@[simp] theorem State.clearPending_mode (s : State) :
    (s.clearPending).mode = s.mode := rfl

@[simp] theorem State.clearPending_acc (s : State) :
    (s.clearPending).acc = s.acc := rfl

@[simp] theorem State.clearPending_bcnt (s : State) :
    (s.clearPending).bcnt = s.bcnt := rfl

@[simp] theorem State.clearPending_lv (s : State) :
    (s.clearPending).lv = false := rfl

@[simp] theorem State.clearPending_lval (s : State) :
    (s.clearPending).lval = 0 := rfl

@[simp] theorem State.clearPending_errIll (s : State) :
    (s.clearPending).errIll = s.errIll := rfl

@[simp] theorem State.clearPending_errOpnd (s : State) :
    (s.clearPending).errOpnd = s.errOpnd := rfl

@[simp] theorem State.clearPending_errMode (s : State) :
    (s.clearPending).errMode = s.errMode := rfl

@[simp] theorem State.clearPending_respQ (s : State) :
    (s.clearPending).respQ = s.respQ := rfl

@[simp] theorem State.clearPending_respValid (s : State) :
    (s.clearPending).respValid = s.respValid := rfl

@[simp] theorem State.clearPending_host (s : State) :
    (s.clearPending).host = s.host := rfl

/-! ## `State.respond` -/

@[simp] theorem State.respond_mode (s : State) (r : PortWord) :
    (s.respond r).mode = s.mode := rfl

@[simp] theorem State.respond_acc (s : State) (r : PortWord) :
    (s.respond r).acc = s.acc := rfl

@[simp] theorem State.respond_bcnt (s : State) (r : PortWord) :
    (s.respond r).bcnt = s.bcnt := rfl

@[simp] theorem State.respond_lv (s : State) (r : PortWord) :
    (s.respond r).lv = s.lv := rfl

@[simp] theorem State.respond_lval (s : State) (r : PortWord) :
    (s.respond r).lval = s.lval := rfl

@[simp] theorem State.respond_errIll (s : State) (r : PortWord) :
    (s.respond r).errIll = s.errIll := rfl

@[simp] theorem State.respond_errOpnd (s : State) (r : PortWord) :
    (s.respond r).errOpnd = s.errOpnd := rfl

@[simp] theorem State.respond_errMode (s : State) (r : PortWord) :
    (s.respond r).errMode = s.errMode := rfl

@[simp] theorem State.respond_respQ (s : State) (r : PortWord) :
    (s.respond r).respQ = r := rfl

@[simp] theorem State.respond_respValid (s : State) (r : PortWord) :
    (s.respond r).respValid = true := rfl

@[simp] theorem State.respond_host (s : State) (r : PortWord) :
    (s.respond r).host = s.host := rfl

/-! ## `State.withHost` -/

@[simp] theorem State.withHost_mode (s : State) (acts : List HostAction) :
    (s.withHost acts).mode = s.mode := rfl

@[simp] theorem State.withHost_acc (s : State) (acts : List HostAction) :
    (s.withHost acts).acc = s.acc := rfl

@[simp] theorem State.withHost_bcnt (s : State) (acts : List HostAction) :
    (s.withHost acts).bcnt = s.bcnt := rfl

@[simp] theorem State.withHost_lv (s : State) (acts : List HostAction) :
    (s.withHost acts).lv = s.lv := rfl

@[simp] theorem State.withHost_lval (s : State) (acts : List HostAction) :
    (s.withHost acts).lval = s.lval := rfl

@[simp] theorem State.withHost_errIll (s : State) (acts : List HostAction) :
    (s.withHost acts).errIll = s.errIll := rfl

@[simp] theorem State.withHost_errOpnd (s : State) (acts : List HostAction) :
    (s.withHost acts).errOpnd = s.errOpnd := rfl

@[simp] theorem State.withHost_errMode (s : State) (acts : List HostAction) :
    (s.withHost acts).errMode = s.errMode := rfl

@[simp] theorem State.withHost_respQ (s : State) (acts : List HostAction) :
    (s.withHost acts).respQ = s.respQ := rfl

@[simp] theorem State.withHost_respValid (s : State) (acts : List HostAction) :
    (s.withHost acts).respValid = s.respValid := rfl

@[simp] theorem State.withHost_host (s : State) (acts : List HostAction) :
    (s.withHost acts).host = acts := rfl

/-! ## `State.resetRegisters` -/

@[simp] theorem State.resetRegisters_mode (s : State) :
    (s.resetRegisters).mode = .idle := rfl

@[simp] theorem State.resetRegisters_acc (s : State) :
    (s.resetRegisters).acc = 0 := rfl

@[simp] theorem State.resetRegisters_bcnt (s : State) :
    (s.resetRegisters).bcnt = 0 := rfl

@[simp] theorem State.resetRegisters_lv (s : State) :
    (s.resetRegisters).lv = false := rfl

@[simp] theorem State.resetRegisters_lval (s : State) :
    (s.resetRegisters).lval = 0 := rfl

@[simp] theorem State.resetRegisters_errIll (s : State) :
    (s.resetRegisters).errIll = false := rfl

@[simp] theorem State.resetRegisters_errOpnd (s : State) :
    (s.resetRegisters).errOpnd = false := rfl

@[simp] theorem State.resetRegisters_errMode (s : State) :
    (s.resetRegisters).errMode = false := rfl

@[simp] theorem State.resetRegisters_respQ (s : State) :
    (s.resetRegisters).respQ = 0 := rfl

@[simp] theorem State.resetRegisters_respValid (s : State) :
    (s.resetRegisters).respValid = false := rfl

@[simp] theorem State.resetRegisters_host (s : State) :
    (s.resetRegisters).host = s.host := rfl

/-! ## `State.raiseFlag` -/

@[simp] theorem State.raiseFlag_mode (s : State) (c : Cause) :
    (s.raiseFlag c).mode = s.mode := by
  cases c <;> rfl

@[simp] theorem State.raiseFlag_acc (s : State) (c : Cause) :
    (s.raiseFlag c).acc = s.acc := by
  cases c <;> rfl

@[simp] theorem State.raiseFlag_bcnt (s : State) (c : Cause) :
    (s.raiseFlag c).bcnt = s.bcnt := by
  cases c <;> rfl

@[simp] theorem State.raiseFlag_lv (s : State) (c : Cause) :
    (s.raiseFlag c).lv = s.lv := by
  cases c <;> rfl

@[simp] theorem State.raiseFlag_lval (s : State) (c : Cause) :
    (s.raiseFlag c).lval = s.lval := by
  cases c <;> rfl

@[simp] theorem State.raiseFlag_errIll (s : State) (c : Cause) :
    (s.raiseFlag c).errIll = (s.errIll || decide (c = .illegalOpcode)) := by
  cases c <;> simp [State.raiseFlag]

@[simp] theorem State.raiseFlag_errOpnd (s : State) (c : Cause) :
    (s.raiseFlag c).errOpnd = (s.errOpnd || decide (c = .reservedOperand)) := by
  cases c <;> simp [State.raiseFlag]

@[simp] theorem State.raiseFlag_errMode (s : State) (c : Cause) :
    (s.raiseFlag c).errMode = (s.errMode || decide (c = .modeMismatch)) := by
  cases c <;> simp [State.raiseFlag]

@[simp] theorem State.raiseFlag_respQ (s : State) (c : Cause) :
    (s.raiseFlag c).respQ = s.respQ := by
  cases c <;> rfl

@[simp] theorem State.raiseFlag_respValid (s : State) (c : Cause) :
    (s.raiseFlag c).respValid = s.respValid := by
  cases c <;> rfl

@[simp] theorem State.raiseFlag_host (s : State) (c : Cause) :
    (s.raiseFlag c).host = s.host := by
  cases c <;> rfl

/-! ## The locals a command starts from -/

@[simp] theorem State.accum_acc (s : State) : s.accum.acc = s.acc := rfl

@[simp] theorem State.accum_count (s : State) : s.accum.count = s.bcnt.toNat := rfl

@[simp] theorem Accum.empty_acc : Accum.empty.acc = 0 := rfl

@[simp] theorem Accum.empty_count : Accum.empty.count = 0 := rfl

end Sys2Proof.Machine
end

