-- ==== Sys2Proof/Laws/Ops.lean ====
section
/-! SUPPORT. Laws/Ops.lean: what running a command can do, said once: every meaning is `perform` of its effect, and
a command that answers a next state either was rejected or completed its effect. -/

namespace Sys2Proof.Machine

/-! ## The states the rules speak about -/

theorem State.legal_iff {s : State} :
    s.Legal ↔ s.AccFits ∧ s.IdleClear ∧ s.EncBounded ∧ s.DecBounded := decide_eq_true_iff

/-- R28 and R29 speak of the session registers alone. -/
theorem State.legal_congr {s t : State} (hm : s.mode = t.mode) (ha : s.acc = t.acc)
    (hb : s.bcnt = t.bcnt) (hv : s.lv = t.lv) (hl : s.lval = t.lval) : s.Legal ↔ t.Legal := by
  simp only [State.legal_iff, State.AccFits, State.IdleClear, State.EncBounded, State.DecBounded,
    hm, ha, hb, hv, hl]

@[simp] theorem State.withHost_legal (s : State) (acts : List HostAction) :
    (s.withHost acts).legal = s.legal := rfl

/-! ## Taking a rejection, and completing a command -/

@[simp] theorem whenLegal_of_legal {s : State} (h : s.Legal) (t : State) : whenLegal s t = .next t := if_pos h

@[simp] theorem whenLegal_of_not_legal {s : State} (h : ¬ s.Legal) (t : State) :
    whenLegal s t = .refused .unreachableState := if_neg h

theorem whenLegal_eq_next {s t u : State} : whenLegal s t = .next u ↔ s.Legal ∧ t = u := by
  by_cases h : s.Legal
  · rw [whenLegal_of_legal h, Host.Outcome.next.injEq]
    exact ⟨fun e => ⟨h, e⟩, fun e => e.2⟩
  · rw [whenLegal_of_not_legal h]
    exact iff_of_false (by simp) fun e => h e.1

/-- R131: the state of a session, `MODE`, `ACC`, `BCNT`, `LV` and `LVAL`, survives a rejection. -/
theorem reject_session (c : Cause) (s : State) :
    (reject c s).mode = s.mode ∧ (reject c s).acc = s.acc ∧ (reject c s).bcnt = s.bcnt ∧
      (reject c s).lv = s.lv ∧ (reject c s).lval = s.lval ∧ (reject c s).host = s.host := by
  simp [reject]

@[simp] theorem reject_respQ (c : Cause) (s : State) : (reject c s).respQ = respWord [] true c.code := rfl

@[simp] theorem reject_respValid (c : Cause) (s : State) : (reject c s).respValid = true := rfl

theorem complete_session (e : Effect) :
    (complete e).mode = e.state.mode ∧ (complete e).acc = e.state.acc ∧
      (complete e).bcnt = e.state.bcnt ∧ (complete e).lv = e.state.lv ∧
      (complete e).lval = e.state.lval ∧ (complete e).host = e.state.host := by
  simp [complete]

@[simp] theorem complete_respQ (e : Effect) : (complete e).respQ = respWord e.out false 0 := rfl

@[simp] theorem complete_respValid (e : Effect) : (complete e).respValid = true := rfl

/-! ## The command check -/

theorem check_eq_none {i : Instr} {s : State} :
    check i s = none ↔ i.wellFormed = true ∧ modeOK s.mode i = true := by
  unfold check
  split <;> simp_all

/-- A rejected command of `exec` is an ill-formed term or issued in the wrong mode; R132's first cause is
the decoder's. -/
theorem check_eq_some {i : Instr} {s : State} {c : Cause} (h : check i s = some c) :
    c = .reservedOperand ∧ i.wellFormed = false ∨ c = .modeMismatch ∧ modeOK s.mode i = false := by
  unfold check at h
  split at h
  · simp_all
  · split at h <;> simp_all

/-! ## Running a command -/

theorem perform_eq_next {i : Instr} {s t : State} {e : Effect} :
    perform i s e = .next t ↔
      s.Legal ∧ ((∃ c, check i s = some c ∧ t = reject c s) ∨ (check i s = none ∧ t = complete e)) := by
  unfold perform
  rw [whenLegal_eq_next]
  refine and_congr_right fun _ => ?_
  cases check i s with
  | none => simp [eq_comm (a := t)]
  | some c => simp [eq_comm (a := t)]

theorem perform_of_check {i : Instr} {s : State} (e : Effect) (hl : s.Legal)
    (hc : check i s = none) : perform i s e = .next (complete e) :=
  perform_eq_next.mpr ⟨hl, .inr ⟨hc, rfl⟩⟩

theorem perform_of_reject {i : Instr} {s : State} {c : Cause} (e : Effect) (hl : s.Legal)
    (hc : check i s = some c) : perform i s e = .next (reject c s) :=
  perform_eq_next.mpr ⟨hl, .inl ⟨c, hc, rfl⟩⟩

/-- The effect of each command when it is accepted. -/
def effectOf (i : Instr) (s : State) : Effect :=
  match i with
  | .nop => nopEffect s
  | .startEnc => startEffect .enc s
  | .startDec => startEffect .dec s
  | .encByte n => encByteEffect Config.alpha n s
  | .encEnd => encEndEffect Config.alpha s
  | .decSym cp => decSymEffect Config.alpha cp s
  | .decEnd => decEndEffect s
  | .alphaRd idx => alphaRdEffect Config.alpha idx s
  | .revRd cp => revRdEffect Config.alpha cp s

theorem exec_eq_perform (i : Instr) (s : State) : exec i s = perform i s (effectOf i s) := by
  cases i <;> rfl

/-- All that a command can do: it answers a next state only from a state of R28 and R29, and then it was
rejected or it completed its effect. -/
theorem exec_cases {i : Instr} {s t : State} (h : exec i s = .next t) :
    s.Legal ∧ ((∃ c, check i s = some c ∧ t = reject c s) ∨
      (check i s = none ∧ t = complete (effectOf i s))) :=
  perform_eq_next.mp (exec_eq_perform i s ▸ h)

/-! ## One step -/

theorem fetch_nil {s : State} (h : s.host = []) : fetch s = .nothing := by simp [fetch, h]

theorem fetch_reset {s : State} {rest : List HostAction} (h : s.host = .reset :: rest) :
    fetch s = .reset (s.withHost rest).resetRegisters := by simp [fetch, h]

theorem fetch_command {s : State} {w : PortWord} {rest : List HostAction}
    (h : s.host = .command w :: rest) : fetch s = .word w (s.withHost rest) := by simp [fetch, h]

theorem step_of_reset {s : State} {rest : List HostAction} (h : s.host = .reset :: rest) :
    step s = .next (s.withHost rest).resetRegisters := by simp [step, fetch_reset h]

theorem step_of_error {s : State} {w : PortWord} {rest : List HostAction} {e : DecodeError}
    (h : s.host = .command w :: rest) (hd : decode w = .error e) :
    step s = rejectWord e (s.withHost rest) := by simp [step, fetch_command h, hd]

/-- All that a step can do: wait, reset, reject a word that is no command, or run a command. -/
theorem step_cases {s t : State} (h : step s = .next t) :
    (s.host = [] ∧ t = s) ∨
    (∃ rest, s.host = .reset :: rest ∧ t = (s.withHost rest).resetRegisters) ∨
    (∃ w rest e, s.host = .command w :: rest ∧ decode w = .error e ∧ (s.withHost rest).Legal ∧
      t = reject (Cause.ofDecodeError e) (s.withHost rest)) ∨
    (∃ w rest i, s.host = .command w :: rest ∧ decode w = .ok i ∧
      exec i (s.withHost rest) = .next t) := by
  unfold step fetch at h
  split at h
  · rename_i hf
    split at hf <;> simp_all
  · rename_i u hf
    split at hf <;> simp_all
  · rename_i w u hf
    split at hf
    · simp at hf
    · simp at hf
    · rename_i w' rest hh
      simp only [Fetched.word.injEq] at hf
      obtain ⟨rfl, rfl⟩ := hf
      split at h
      · exact .inr (.inr (.inr ⟨_, rest, _, hh, ‹_›, h⟩))
      · refine .inr (.inr (.inl ⟨_, rest, _, hh, ‹_›, ?_⟩))
        exact ⟨(whenLegal_eq_next.mp h).1, (whenLegal_eq_next.mp h).2.symm⟩

end Sys2Proof.Machine
end

