-- ==== Sys2Proof/Laws/PerInstr.lean ====
section
/-! SUPPORT. Laws/PerInstr.lean: facts about each command as syntax, one lemma per constructor. -/

namespace Sys2Proof.Laws.EncodedFields

/-- R60, R61, R64 (c): the word of a command carries its opcode in bits 31:28, zeros in the reserved bits
27:21, and its operand in bits 20:0. -/
def Statement (i : Instr) : Prop :=
  opField (encode i) = i.opcode ∧ rsvField (encode i) = 0 ∧ argField (encode i) = i.argument

/-- The fields of any word put together from an opcode and an operand. -/
theorem fields_of_append (op : BitVec 4) (arg : BitVec 21) :
    opField (op ++ 0#7 ++ arg) = op ∧ rsvField (op ++ 0#7 ++ arg) = 0 ∧
      argField (op ++ 0#7 ++ arg) = arg := by
  refine ⟨?_, ?_, ?_⟩ <;> ext k hk <;>
    simp only [opField, rsvField, argField, BitVec.getElem_extractLsb', BitVec.getLsbD_append]
  · simp [show ¬ 28 + k < 21 by omega, show 28 + k - 21 = k + 7 by omega, BitVec.getLsbD_eq_getElem hk]
  · simp [show ¬ 21 + k < 21 by omega, hk]
  · simp [hk]

theorem nop : Statement .nop := fields_of_append _ _
theorem startEnc : Statement .startEnc := fields_of_append _ _
theorem startDec : Statement .startDec := fields_of_append _ _
theorem encByte (n : Byte) : Statement (.encByte n) := fields_of_append _ _
theorem encEnd : Statement .encEnd := fields_of_append _ _
theorem decSym (cp : CodePoint) : Statement (.decSym cp) := fields_of_append _ _
theorem decEnd : Statement .decEnd := fields_of_append _ _
theorem alphaRd (idx : BitVec 7) : Statement (.alphaRd idx) := fields_of_append _ _
theorem revRd (cp : CodePoint) : Statement (.revRd cp) := fields_of_append _ _

end Sys2Proof.Laws.EncodedFields
end

