-- ==== Sys2Proof/Laws/Rom.lean ====
section
/-! SUPPORT. Laws/Rom.lean: the ROM reads are the alphabet and its inverse; the look-up of the pinned entries, which
lets the kernel evaluate a read, changes no result (log entry 9). -/

namespace Sys2Proof.Machine

/-- R46: `AlphaRead(i)` is `ALPHA[i]`. -/
theorem alphaRead_eq_code (A : Alphabet) (i : Digit) : alphaRead A i = A.code i := by
  unfold alphaRead
  cases h : pinnedCode i with
  | none => rfl
  | some c => exact (A.pinned i c h).symm

/-- A pinned index has the code it was looked up by, in every alphabet. -/
theorem code_of_pinnedIndex (A : Alphabet) {c : Code} {i : Digit} (h : pinnedIndex c = some i) :
    A.code i = c := by
  have := List.find?_some h
  exact A.pinned i c (by simpa using this)

/-- R45: the symbol look-up is the inverse of `ALPHA`. -/
theorem symbolIndex_eq_some {A : Alphabet} {c : Code} {i : Digit} :
    symbolIndex A c = some i ↔ A.code i = c := by
  constructor
  · intro h
    unfold symbolIndex at h
    split at h
    · rename_i j hj
      cases h
      exact code_of_pinnedIndex A hj
    · split at h
      · simpa using List.find?_some h
      · cases h
  · rintro rfl
    unfold symbolIndex
    split
    · rename_i j hj
      rw [A.distinct j i (code_of_pinnedIndex A hj)]
    · rw [if_pos (A.candidate i)]
      cases hf : (List.finRange 91).find? fun k => A.code k == A.code i with
      | none =>
        have := List.find?_eq_none.mp hf i (List.mem_finRange i)
        simp at this
      | some k => rw [A.distinct k i (by simpa using List.find?_some hf)]

/-- R45: the source's look-up is the inverse of `ALPHA` too. -/
theorem sourceDigit_eq_some {A : Alphabet} {n : Nat} {i : Digit} :
    sourceDigit A n = some i ↔ (A.code i).toNat = n := by
  refine ⟨fun h => by simpa using List.find?_some h, ?_⟩
  rintro rfl
  cases hf : sourceDigit A (A.code i).toNat with
  | none =>
    have := List.find?_eq_none.mp hf i (List.mem_finRange i)
    simp at this
  | some k => rw [A.distinct k i (BitVec.eq_of_toNat_eq (by simpa using List.find?_some hf))]

theorem symbolIndex_eq_none {A : Alphabet} {c : Code} :
    symbolIndex A c = none ↔ ∀ i : Digit, A.code i ≠ c := by
  rw [Option.eq_none_iff_forall_ne_some]
  exact forall_congr' fun i => not_congr symbolIndex_eq_some

@[simp] theorem Digit.bits_toNat (d : Digit) : (Digit.bits d).toNat = d.val := by
  have := d.isLt
  simp only [Digit.bits, BitVec.toNat_ofNat]
  omega

@[simp] theorem byteBits_toNat (n : Byte) : (byteBits n).toNat = n.toNat := by
  have := n.isLt
  simp only [byteBits, BitVec.toNat_setWidth]
  omega

@[simp] theorem codeItem_toNat (c : Code) : (codeItem c).toNat = c.toNat := by
  have := c.isLt
  simp only [codeItem, BitVec.toNat_setWidth]
  omega

@[simp] theorem loneBits_toNat (l : BitVec 7) : (loneBits l).toNat = l.toNat := by
  have := l.isLt
  simp only [loneBits, BitVec.toNat_setWidth]
  omega

end Sys2Proof.Machine
end

