-- ==== Sys2Proof/Tests/Slice0.lean ====
section
/-! SUPPORT. Tests/Slice0.lean: the model's own tests. Expected values are from the spec's vectors
(95_test_vectors.md, named in each test) or bit patterns (30_encoding.md R62); after them, for each
obligation with hypotheses, states and operands that meet them, at the boundaries of its clauses. -/

namespace Sys2Proof.Tests

open Sys2Proof.Machine Sys2Proof.Claims

/-! ## Small states -/

/-- An encode session with pending bits. -/
def encSt (acc bcnt : Nat) : State :=
  { State.reset with mode := .enc, acc := BitVec.ofNat 21 acc, bcnt := BitVec.ofNat 5 bcnt }

/-- A decode session with pending bits and no digit. -/
def decSt (acc bcnt : Nat) : State :=
  { State.reset with mode := .dec, acc := BitVec.ofNat 21 acc, bcnt := BitVec.ofNat 5 bcnt }

/-- A decode session with pending bits and a pending digit. -/
def pairSt (acc bcnt lval : Nat) : State :=
  { decSt acc bcnt with lv := true, lval := BitVec.ofNat 7 lval }

/-- The state with one word at the command port. -/
def offering (w : PortWord) (s : State) : State := { s with host := [.command w] }

/-- The next state of an outcome, if it is one. -/
def nextOf (o : Host.Outcome State Fault Refusal) : Option State :=
  match o with
  | .next t => some t
  | .fault _ => none
  | .refused _ => none

/-- The response to one word, and STATUS after it. -/
def seen (w : PortWord) (s : State) : Option (PortWord × PortWord) :=
  (nextOf (issue w s)).map fun t => (t.respQ, t.status)

/-- The accumulator after one word. -/
def accAfter (w : PortWord) (s : State) : Option (BitVec 21) := (nextOf (issue w s)).map (·.acc)

/-! ## Well-formedness: an ill-formed term for its one check -/

theorem test_wellFormed_refuses_alphaRd_91 : ¬ (Instr.alphaRd 91#7).WellFormed := by decide
theorem test_wellFormed_refuses_alphaRd_127 : ¬ (Instr.alphaRd 127#7).WellFormed := by decide
theorem test_wellFormed_takes_alphaRd_90 : (Instr.alphaRd 90#7).WellFormed := by decide

/-! ## Decoding: words written out from the patterns of R62 -/

theorem test_decode_nop : decode 0b00000000000000000000000000000000#32 = .ok .nop := by decide
theorem test_decode_startEnc : decode 0b00010000000000000000000000000000#32 = .ok .startEnc := by decide
theorem test_decode_startDec : decode 0b00100000000000000000000000000000#32 = .ok .startDec := by decide
theorem test_decode_encByte :
    decode 0b00110000000000000000000010110100#32 = .ok (.encByte 0b10110100#8) := by decide
theorem test_decode_encEnd : decode 0b01000000000000000000000000000000#32 = .ok .encEnd := by decide
theorem test_decode_decSym :
    decode 0b01010000000100000000000001010100#32 = .ok (.decSym 0x100054#21) := by decide
theorem test_decode_decEnd : decode 0b01100000000000000000000000000000#32 = .ok .decEnd := by decide
theorem test_decode_alphaRd :
    decode 0b01110000000000000000000001011010#32 = .ok (.alphaRd 90#7) := by decide
theorem test_decode_revRd :
    decode 0b10000000000111111111111111111111#32 = .ok (.revRd 0x1FFFFF#21) := by decide

/-- Vectors X1, X2, X17: opcodes 0x9 and 0xF, whatever the other bits. -/
theorem test_decode_illegal :
    decode 0x90000000#32 = .error .illegalOpcode ∧ decode 0xFFFFFFFF#32 = .error .illegalOpcode ∧
      decode 0xF0200000#32 = .error .illegalOpcode := by decide
/-- Vectors C8, C9, X12, X14, X15, X16: must-be-zero bits. -/
theorem test_decode_reserved_bits :
    decode 0x00000001#32 = .error .reservedOperand ∧ decode 0x10200000#32 = .error .reservedOperand ∧
      decode 0x30000100#32 = .error .reservedOperand ∧ decode 0x50200054#32 = .error .reservedOperand ∧
      decode 0x40000001#32 = .error .reservedOperand ∧
      decode 0x60000010#32 = .error .reservedOperand := by decide
/-- Vectors K6, K7, K8: ALPHA_RD's index. -/
theorem test_decode_reserved_index :
    decode 0x7000005B#32 = .error .reservedOperand ∧ decode 0x7000007F#32 = .error .reservedOperand ∧
      decode 0x70000080#32 = .error .reservedOperand := by decide

theorem test_encode_encByte : encode (.encByte 0xFF#8) = 0x300000FF#32 := by decide
theorem test_encode_alphaRd : encode (.alphaRd 43#7) = 0x7000002B#32 := by decide
theorem test_decodeTableWord : decodeTableWord 32 0x8000007A = some (.revRd 0x7A#21) := by decide

/-! ## One step of each command -/

/-- Vector C6. -/
theorem test_nop_keeps_session :
    seen 0x00000000#32 (pairSt 0x12 6 19) = some (0x00000000#32, 0x0000139A#32) := by decide
/-- Vector X18. -/
theorem test_nop_keeps_flags :
    seen 0x00000000#32 { State.reset with errIll := true, errOpnd := true, errMode := true } =
      some (0x00000000#32, 0x00070000#32) := by decide
/-- Vector C3. -/
theorem test_startEnc_aborts_decode :
    seen 0x10000000#32 (pairSt 1 5 43) = some (0x00000000#32, 0x00000001#32) := by decide
/-- Vector C7. -/
theorem test_startEnc_keeps_flag :
    seen 0x10000000#32 { State.reset with errMode := true } = some (0x00000000#32, 0x00040001#32) := by
  decide
/-- Vector C4. -/
theorem test_startDec_aborts_encode :
    seen 0x20000000#32 (encSt 0x5A3 11) = some (0x00000000#32, 0x00000002#32) := by decide
/-- Vector C10. -/
theorem test_startDec_drops_digit :
    seen 0x20000000#32 (pairSt 0 0 43) = some (0x00000000#32, 0x00000002#32) := by decide
/-- Vector E6. -/
theorem test_encByte_emits_pair :
    seen 0x30000001#32 (encSt 0xF2 8) = some (0x00027A54#32, 0x0000000D#32) := by decide
/-- Vector E7 [default]: BCNT 12 to 20. -/
theorem test_encByte_largest_count :
    encByteEffect Alphabet.default 0xFF#8 (encSt 0xFFF 12) = ⟨encSt 0x7F 7, [0x7E#8, 0x25#8]⟩ := by
  decide
/-- Vector F9. -/
theorem test_encEnd_two_symbols :
    seen 0x40000000#32 (encSt 0x2B 8) = some (0x00022154#32, 0x00000000#32) := by decide
/-- Vectors F3, F4 [default]: the threshold is 7 leftover bits. -/
theorem test_encEnd_threshold :
    flushSymbols Alphabet.default (encSt 0x3F 6) = [0x40#8] ∧
      flushSymbols Alphabet.default (encSt 0x7F 7) = [0x5B#8, 0x7E#8] := by decide
/-- Vector G2. -/
theorem test_decSym_completes_pair :
    seen 0x5000007A#32 (pairSt 0 0 43) = some (0x000100F2#32, 0x00000016#32) ∧
      accAfter 0x5000007A#32 (pairSt 0 0 43) = some 1#21 := by decide
/-- Vectors G12, G13 [default]: an overflow pair, and the pair of 8191 with seven bits pending. -/
theorem test_decSym_high_ninety :
    decSymEffect Alphabet.default 0x25#21 (pairSt 1 5 5) = ⟨decSt 1 5, []⟩ ∧
      decSymEffect Alphabet.default 0x25#21 (pairSt 0x7F 7 1) = ⟨decSt 0xF 4, [0xFF#8, 0xFF#8]⟩ := by
  decide
/-- Vector H9. -/
theorem test_decEnd_lone_digit :
    seen 0x60000000#32 (pairSt 0x15 5 43) = some (0x00010075#32, 0x00000000#32) := by decide
/-- Vector H2. -/
theorem test_decEnd_lone_digit_alone :
    seen 0x60000000#32 (pairSt 0 0 43) = some (0x00000000#32, 0x00000000#32) := by decide
/-- Vector K14. -/
theorem test_alphaRd_inside_session :
    seen 0x7000002B#32 (pairSt 1 5 43) = some (0x00010054#32, 0x00002B96#32) := by decide
/-- Vector K5 [default]. -/
theorem test_alphaRd_last_entry :
    (alphaRdEffect Alphabet.default 90#7 State.reset).out = [0x25#8] := by decide
/-- Vector K15. -/
theorem test_revRd_inside_session :
    seen 0x80000054#32 (encSt 7 3) = some (0x0001002B#32, 0x0000000D#32) := by decide
/-- Vectors K13, K16. -/
theorem test_revRd_sentinel :
    seen 0x80010000#32 State.reset = some (0x0001007F#32, 0x00000000#32) ∧
      seen 0x80000027#32 State.reset = some (0x0001007F#32, 0x00000000#32) := by decide

/-! ## Rejection, reset and waiting -/

/-- Vectors X3, X10, X13: each cause, its response and its flag, with the session kept. -/
theorem test_rejections :
    seen 0xA0000000#32 (encSt 7 3) = some (0x000C0000#32, 0x0001000D#32) ∧
      seen 0x50000054#32 (encSt 0xFFF 12) = some (0x001C0000#32, 0x00040031#32) ∧
      seen 0x30000100#32 State.reset = some (0x00140000#32, 0x00020000#32) := by decide
/-- R150. -/
theorem test_reset :
    nextOf (step { pairSt 1 5 43 with errIll := true, respQ := 7#32, host := [.reset] }) =
      some State.reset := by decide
/-- R145. -/
theorem test_waits : nextOf (step (encSt 7 3)) = some (encSt 7 3) := by decide
theorem test_withFetchWord :
    nextOf (step (State.reset.withFetchWord 32 0x10000000)) =
      some { encSt 0 0 with respValid := true } := by decide

/-! ## The assembler (R69, R70) -/

theorem test_assemble_escapes :
    assembleLine ['D', 'E', 'C', '_', 'S', 'Y', 'M', ' ', '"', '\\', 's', '"', ' ', ';', 'x'] =
      .ok [0x50000020#32] := by decide
theorem test_assemble_hex_list :
    assembleLine ['E', 'N', 'C', 'O', 'D', 'E', ' ', '0', 'x', 'F', '2', ',', ' ', '1'] =
      .ok [0x10000000#32, 0x300000F2#32, 0x30000001#32, 0x40000000#32] := by decide
theorem test_assemble_text :
    assembleLine ['D', 'E', 'C', 'O', 'D', 'E', ' ', '"', 'T', ';', '\\', 'n', '"'] =
      .ok [0x20000000#32, 0x50000054#32, 0x5000003B#32, 0x5000000A#32, 0x60000000#32] := by decide
theorem test_assemble_raw_word :
    assembleLine ['.', 'w', 'o', 'r', 'd', ' ', '0', 'x', '9', '0', '0', '0', '0', '0', '0', '0'] =
      .ok [0x90000000#32] := by decide

/-! ## Symbols of the parameter `ALPHA`, for the witnesses -/

theorem symbolOf_entry (d : Digit) : SymbolOf (BitVec.ofNat 21 (Config.alpha.code d).toNat) d := by
  have := (Config.alpha.code d).isLt
  simp only [SymbolOf, BitVec.toNat_ofNat]
  omega

/-- The text of a digit list. -/
def textOf (ds : List Digit) : List CodePoint :=
  ds.map fun d => BitVec.ofNat 21 (Config.alpha.code d).toNat

theorem digitsOf_textOf (ds : List Digit) : digitsOf (textOf ds) = ds.map (·.val) := by
  induction ds with
  | nil => rfl
  | cons d ds ih =>
    have h := sourceDigit_eq_some.mpr (symbolOf_entry d)
    simp only [digitsOf, textOf, List.map_cons] at ih ⊢
    rw [List.filterMap_cons_some (by rw [h]; rfl), ih]

theorem symbolOf_T : SymbolOf 0x54#21 (43 : Digit) := by
  rw [SymbolOf, Config.alpha.pinned 43 0x54#7 (by decide)]
  rfl

theorem noSymbol_of_high {cp : CodePoint} (h : 127 < cp.toNat) : NoSymbol cp := fun d hd => by
  have := (Config.alpha.code d).isLt
  omega

theorem noSymbol_space : NoSymbol 0x20#21 := fun d hd => by
  have h := Config.alpha.candidate d
  simp only [isCandidate, Bool.and_eq_true, decide_eq_true_eq] at h
  have : (0x20#21).toNat = 32 := rfl
  omega

/-! ## Witnesses: what the obligations' hypotheses ask for exists -/

theorem witness_StepRunsTheDecodedCommand :
    (offering 0x300000F2#32 State.reset).host = .command 0x300000F2#32 :: [] ∧
      decode 0x300000F2#32 = .ok (.encByte 0xF2#8) := by decide

theorem witness_StepChecks_illegal :
    (offering 0x90000000#32 (encSt 7 3)).Legal ∧ specCheck .enc 0x90000000#32 = 1 ∧
      (offering 0x90000000#32 (encSt 7 3)).host = .command 0x90000000#32 :: [] := by decide
theorem witness_StepChecks_reserved :
    specCheck .idle 0x30000100#32 = 2 ∧ specCheck .idle 0x7000005B#32 = 2 ∧
      specCheck .dec 0x50200000#32 = 2 ∧ specCheck .idle 0x00000001#32 = 2 := by decide
theorem witness_StepChecks_mode :
    specCheck .idle 0x300000FF#32 = 3 ∧ specCheck .dec 0x40000000#32 = 3 ∧
      specCheck .enc 0x501FFFFF#32 = 3 ∧ specCheck .enc 0x60000000#32 = 3 := by decide
theorem witness_StepChecks_accepted :
    (offering 0x300000FF#32 (encSt 0xFFF 12)).Legal ∧ specCheck .enc 0x300000FF#32 = 0 ∧
      specCheck .idle 0x7000005A#32 = 0 ∧ specCheck .dec 0x501FFFFF#32 = 0 := by decide

theorem witness_DecodeOfEncode : (Instr.alphaRd 90#7).WellFormed := by decide
theorem witness_EncodeOfDecode : decode 0x7000005A#32 = .ok (.alphaRd 90#7) := by decide
theorem witness_DecodeMatchesOpcodeTable :
    decode 0x8FFFFFFF#32 = .error .reservedOperand ∧ decode 0x801FFFFF#32 = .ok (.revRd 0x1FFFFF#21) ∧
      FitsRow 0x7000005A#32 (.alphaRd 0#7) := by
  refine ⟨by decide, by decide, by decide, fun _ => by decide⟩

/-- The reserved words of a command without operand, at both ends of their range. -/
theorem witness_reserved_bare :
    (0x00000001#32).toNat / 2 ^ 28 = 0x0 ∧ (0x00000001#32).toNat % 2 ^ 28 ≠ 0 ∧
      (0x1FFFFFFF#32).toNat / 2 ^ 28 = 0x1 ∧ (0x1FFFFFFF#32).toNat % 2 ^ 28 ≠ 0 ∧
      (0x20000001#32).toNat / 2 ^ 28 = 0x2 ∧ (0x20000001#32).toNat % 2 ^ 28 ≠ 0 ∧
      (0x48000000#32).toNat / 2 ^ 28 = 0x4 ∧ (0x48000000#32).toNat % 2 ^ 28 ≠ 0 ∧
      (0x60000010#32).toNat / 2 ^ 28 = 0x6 ∧ (0x60000010#32).toNat % 2 ^ 28 ≠ 0 := by decide
theorem witness_reserved_operand :
    (0x30000100#32).toNat / 2 ^ 28 = 0x3 ∧ (0x30000100#32).toNat % 2 ^ 28 / 2 ^ 8 ≠ 0 ∧
      (0x50200000#32).toNat / 2 ^ 28 = 0x5 ∧ (0x50200000#32).toNat % 2 ^ 28 / 2 ^ 21 ≠ 0 ∧
      (0x70000080#32).toNat / 2 ^ 28 = 0x7 ∧ (0x70000080#32).toNat % 2 ^ 28 / 2 ^ 7 ≠ 0 ∧
      (0x7000005B#32).toNat / 2 ^ 28 = 0x7 ∧ 90 < (0x7000005B#32).toNat % 2 ^ 7 ∧
      (0x8FFFFFFF#32).toNat / 2 ^ 28 = 0x8 ∧ (0x8FFFFFFF#32).toNat % 2 ^ 28 / 2 ^ 21 ≠ 0 := by decide
theorem witness_ReservedWord :
    (offering 0x30000100#32 (encSt 0 0)).Legal ∧
      (offering 0x30000100#32 (encSt 0 0)).host = .command 0x30000100#32 :: [] := by decide

theorem witness_NopFollowsRule : (pairSt 0x12 6 19).Legal := by decide
theorem witness_StartEncFollowsRule : (pairSt 1 5 43).Legal ∧ (encSt 7 3).Legal := by decide
theorem witness_StartDecFollowsRule : (encSt 0x5A3 11).Legal ∧ State.reset.Legal := by decide

theorem witness_EncByte_rejected : State.reset.Legal ∧ State.reset.mode ≠ .enc := by decide
theorem witness_EncByte_no_word :
    (encSt 0xF 4).Legal ∧ (encSt 0xF 4).mode = .enc ∧ (encSt 0xF 4).bcnt.toNat ≤ 4 := by decide
theorem witness_EncByte_word :
    (encSt 0x1F 5).Legal ∧ 5 ≤ (encSt 0x1F 5).bcnt.toNat ∧ (encSt 0xFFF 12).Legal ∧
      (encSt 0xFFF 12).mode = .enc ∧ 5 ≤ (encSt 0xFFF 12).bcnt.toNat := by decide

theorem witness_EncEnd_rejected : (decSt 0 0).Legal ∧ (decSt 0 0).mode ≠ .enc := by decide
theorem witness_EncEnd_nothing : (encSt 0 0).Legal ∧ (encSt 0 0).bcnt.toNat = 0 := by decide
theorem witness_EncEnd_one :
    (encSt 1 1).Legal ∧ 1 ≤ (encSt 1 1).bcnt.toNat ∧ (encSt 0x3F 6).Legal ∧
      (encSt 0x3F 6).bcnt.toNat ≤ 6 := by decide
theorem witness_EncEnd_two :
    (encSt 0x7F 7).Legal ∧ 7 ≤ (encSt 0x7F 7).bcnt.toNat ∧ (encSt 0xFFF 12).Legal ∧
      7 ≤ (encSt 0xFFF 12).bcnt.toNat := by decide

theorem witness_DecSym_rejected : (encSt 0xFFF 12).Legal ∧ (encSt 0xFFF 12).mode ≠ .dec := by decide
theorem witness_DecSym_skips :
    (pairSt 0 0 43).Legal ∧ (pairSt 0 0 43).mode = .dec ∧ NoSymbol 0x80#21 ∧ NoSymbol 0x20#21 :=
  ⟨by decide, by decide, noSymbol_of_high (by decide), noSymbol_space⟩
theorem witness_DecSym_first :
    (decSt 0x7F 7).Legal ∧ (decSt 0x7F 7).mode = .dec ∧ (decSt 0x7F 7).lv = false ∧
      SymbolOf 0x54#21 43 := ⟨by decide, by decide, by decide, symbolOf_T⟩
theorem witness_DecSym_overflow :
    (pairSt 1 5 2).Legal ∧ (pairSt 1 5 2).mode = .dec ∧ (pairSt 1 5 2).lv = true ∧
      SymbolOf (BitVec.ofNat 21 (Config.alpha.code 90).toNat) 90 ∧
      8191 < 91 * (90 : Digit).val + (pairSt 1 5 2).lval.toNat :=
  ⟨by decide, by decide, by decide, symbolOf_entry 90, by decide⟩
theorem witness_DecSym_one_byte :
    (pairSt 3 2 1).Legal ∧ (pairSt 3 2 1).lv = true ∧ (pairSt 3 2 1).bcnt.toNat ≤ 2 ∧
      SymbolOf (BitVec.ofNat 21 (Config.alpha.code 90).toNat) 90 ∧
      91 * (90 : Digit).val + (pairSt 3 2 1).lval.toNat ≤ 8191 :=
  ⟨by decide, by decide, by decide, symbolOf_entry 90, by decide⟩
theorem witness_DecSym_two_bytes :
    (pairSt 7 3 90).Legal ∧ (pairSt 7 3 90).lv = true ∧ 3 ≤ (pairSt 7 3 90).bcnt.toNat ∧
      (pairSt 0x7F 7 1).Legal ∧ 3 ≤ (pairSt 0x7F 7 1).bcnt.toNat ∧ SymbolOf 0x54#21 43 ∧
      91 * (43 : Digit).val + (pairSt 7 3 90).lval.toNat ≤ 8191 :=
  ⟨by decide, by decide, by decide, by decide, by decide, symbolOf_T, by decide⟩

theorem witness_DecEnd_rejected : (encSt 1 1).Legal ∧ (encSt 1 1).mode ≠ .dec := by decide
theorem witness_DecEnd_no_digit : (decSt 0x7F 7).Legal ∧ (decSt 0x7F 7).lv = false := by decide
theorem witness_DecEnd_digit_alone :
    (pairSt 0 0 90).Legal ∧ (pairSt 0 0 90).lv = true ∧ (pairSt 0 0 90).bcnt.toNat = 0 := by decide
theorem witness_DecEnd_byte :
    (pairSt 1 1 90).Legal ∧ (pairSt 1 1 90).lv = true ∧ 1 ≤ (pairSt 1 1 90).bcnt.toNat ∧
      (pairSt 0x7F 7 90).Legal := by decide

theorem witness_AlphaRdFollowsRule : (pairSt 1 5 43).Legal ∧ (90#7).toNat ≤ 90 := by decide
theorem witness_RevRd_sentinel : (encSt 7 3).Legal ∧ NoSymbol 0x20#21 := ⟨by decide, noSymbol_space⟩
theorem witness_RevRd_digit : (encSt 7 3).Legal ∧ SymbolOf 0x54#21 43 := ⟨by decide, symbolOf_T⟩

theorem witness_ResetFromAnyState :
    { encSt 7 13 with host := [.reset, .command 0#32] }.host = .reset :: [.command 0#32] := by decide
theorem witness_WaitingHoldsState : (encSt 7 3).host = [] := by decide
theorem witness_HostActions :
    (offering 0x300000FF#32 (encSt 0xFFF 12)).Legal ∧
      (offering 0x300000FF#32 (encSt 0xFFF 12)).host = .command 0x300000FF#32 :: [] ∧
      ({ encSt 7 3 with host := [.reset] } : State).Legal := by decide
theorem witness_StepKeepsLegal :
    (offering 0x5000007A#32 (pairSt 0x7F 7 43)).Legal ∧
      (nextOf (step (offering 0x5000007A#32 (pairSt 0x7F 7 43)))).isSome = true := by decide
theorem witness_reachable : Reachable (State.reset.withHost [.command 0x10000000#32]) :=
  .queue _ _ .reset
theorem witness_UnreachableStatesAreRefused :
    ¬ (offering 0#32 (encSt 0 13)).Legal ∧ ¬ (offering 0#32 (encSt 8 3)).Legal ∧
      ¬ (offering 0#32 (decSt 0 8)).Legal ∧ ¬ (offering 0#32 (pairSt 0 0 91)).Legal ∧
      (offering 0#32 (encSt 0 13)).host = .command 0#32 :: [] := by decide

theorem witness_CombineOverflows :
    combine (90 : Digit).val (89 : Digit).val = some 8189#13 ∧
      combine (1 : Digit).val (90 : Digit).val = some 8191#13 ∧
      combine (2 : Digit).val (90 : Digit).val = none := by decide
theorem witness_SplitAndCombineInvert : combine (0 : Digit).val (90 : Digit).val = some 8190#13 := by decide
theorem witness_InsAppendsExactly :
    (0x1FFF#21).toNat < 2 ^ 13 ∧ (⟨0x7F#21, 7⟩ : Accum).acc.toNat < 2 ^ 7 ∧ 7 + 13 ≤ 20 := by decide
theorem witness_ExtRemovesOldestBits : 13 ≤ (⟨0xFFFFF#21, 20⟩ : Accum).count := by decide
theorem witness_CommandBits :
    (encSt 0xFFF 12).Legal ∧ (pairSt 0x7F 7 90).Legal ∧ (pairSt 0x7F 7 90).mode = .dec := by decide
theorem witness_DrainAfterDiscard : (decSt 0x7F 7).Legal ∧ (decSt 0x7F 7).mode = .dec := by decide
theorem witness_LoopsRunAtMostTwice :
    (encSt 0xF 4).Legal ∧ (encSt 0x1F 5).Legal ∧ (decSt 3 2).Legal ∧ (decSt 7 3).Legal := by decide

theorem witness_PinnedEntries :
    (0 : Digit).val = 0 ∧ 5 ≤ (5 : Digit).val ∧ (30 : Digit).val ≤ 30 ∧ (43 : Digit).val = 43 := by decide
theorem witness_ReverseTable_no_symbol : ∀ i : Digit, Alphabet.default.code i ≠ 0x24#7 := by decide
theorem witness_ReverseTable_digit : revRead Alphabet.default 0x54#7 = BitVec.ofNat 7 (43 : Digit).val := by
  decide
theorem witness_SymDigit :
    127 < (0x80#21).toNat ∧ (0x7F#21).toNat ≤ 127 ∧ revRead Alphabet.default 0x7F#7 = 0x7F#7 ∧
      revRead Alphabet.default 0x54#7 ≠ 0x7F#7 := by decide
theorem witness_RomInvariantAtPorts :
    (pairSt 1 5 43).Legal ∧ (nextOf (issue 0x7000002B#32 (pairSt 1 5 43))).isSome = true ∧
      (nextOf (issue 0x70000000#32 (pairSt 1 5 43))).isSome = true := by decide

theorem witness_ResponseLayout : [0x54#8, 0x7A#8].length ≤ 2 := by decide
theorem witness_ErrorFlagsAreSticky :
    (offering 0x10000000#32 { State.reset with errMode := true }).rstPort = false ∧
      (nextOf (step (offering 0x10000000#32 { State.reset with errMode := true }))).isSome = true := by
  decide
theorem witness_FlagsDoNotSteerExecution :
    SameSession (offering 0x300000FF#32 (encSt 0x1F 5))
        (offering 0x300000FF#32 { encSt 0x1F 5 with errMode := true, respQ := 7#32 }) ∧
      (offering 0x300000FF#32 (encSt 0x1F 5)).cmdValid = true ∧
      (nextOf (step (offering 0x300000FF#32 (encSt 0x1F 5)))).isSome = true :=
  ⟨⟨rfl, rfl, rfl, rfl, rfl, rfl⟩, by decide, by decide⟩
theorem witness_RegistersChange :
    (nextOf (exec .decEnd (pairSt 1 5 43))).isSome = true ∧
      (nextOf (exec (.encByte 0#8) State.reset)).map (fun t => respRejected t.respQ) = some true := by decide

theorem witness_WordsOutsideSessions (rs : List PortWord) (t : State)
    (_ : runWords [] (pairSt 0 0 43) = some (rs, t)) :
    (pairSt 0 0 43).Legal ∧ OutsideSession 0x00000000#32 t ∧ OutsideSession 0x8000007A#32 t :=
  ⟨by decide, .inr (.inl (by decide)), .inr (.inr (.inr ⟨0x7A#21, by decide⟩))⟩
theorem witness_WordsOutsideSessions_run :
    runWords [] (pairSt 0 0 43) = some ([], pairSt 0 0 43) := rfl
theorem witness_EncodePairTiming :
    State.reset.Legal ∧ 1 ≤ 13 ∧ 13 ≤ (List.replicate 13 (0#8 : Byte)).length := by decide
theorem witness_sessions_start :
    State.reset.Legal ∧ (encSt 0x5A3 11).Legal ∧ (pairSt 0x7F 7 90).Legal := by decide
theorem witness_DecoderEdgeCases :
    (∀ cp ∈ [0x20#21, 0x4E2D#21], NoSymbol cp) ∧ SymbolOf 0x54#21 43 ∧
      SymbolOf (BitVec.ofNat 21 (Config.alpha.code 0).toNat) 0 ∧
      SymbolOf (BitVec.ofNat 21 (Config.alpha.code 1).toNat) 1 ∧
      SymbolOf (BitVec.ofNat 21 (Config.alpha.code 90).toNat) 90 ∧ 2 ≤ (2 : Digit).val ∧
      SymbolOf (BitVec.ofNat 21 (Config.alpha.code 2).toNat) 2 := by
  refine ⟨?_, symbolOf_T, symbolOf_entry 0, symbolOf_entry 1, symbolOf_entry 90, by decide,
    symbolOf_entry 2⟩
  intro cp h
  simp only [List.mem_cons, List.not_mem_nil, or_false] at h
  rcases h with rfl | rfl
  · exact noSymbol_space
  · exact noSymbol_of_high (by decide)
theorem witness_DecoderEdgeCases_before :
    WholePairs [] ∧ pendingBits [] = 0 ∧ WholePairs (textOf [0, 0]) ∧ pendingBits (textOf [0, 0]) = 5 ∧
      WholePairs (textOf (List.replicate 10 0)) ∧ pendingBits (textOf (List.replicate 10 0)) = 1 ∧
      WholePairs (textOf [2, 90, 0, 0, 43, 5, 0, 0]) ∧
      pendingBits (textOf [2, 90, 0, 0, 43, 5, 0, 0]) = 7 := by
  simp only [WholePairs, pendingBits, digitsOf_textOf]
  decide
theorem witness_DecoderEdgeCases_following :
    91 * (90 : Digit).val + (1 : Digit).val ≤ 8191 ∧ (0 : Digit).val ≤ 1 ∧ (1 : Digit).val ≤ 1 := by decide
/-- One pair before and a lone symbol behind, and nothing before and one pair behind, are enough. -/
theorem witness_DecoderEdgeCases_word :
    (∃ lo hi rest, textOf [0, 0, 1, 90, 0] = textOf [0, 0] ++ lo :: hi :: rest ∧
      SymbolOf lo 1 ∧ SymbolOf hi 90 ∧
      13 * keptPairs (digitsOf (textOf [0, 0])) + 13 ≤ 8 * decodedLength (digitsOf (textOf [0, 0, 1, 90, 0]))) ∧
    (∃ lo hi rest, textOf [0, 90, 2, 5] = [] ++ lo :: hi :: rest ∧ SymbolOf lo 0 ∧ SymbolOf hi 90 ∧
      13 * keptPairs (digitsOf []) + 13 ≤ 8 * decodedLength (digitsOf (textOf [0, 90, 2, 5]))) :=
  ⟨⟨_, _, textOf [0], rfl, symbolOf_entry 1, symbolOf_entry 90, by simp only [digitsOf_textOf]; decide⟩,
    ⟨_, _, textOf [2, 5], rfl, symbolOf_entry 0, symbolOf_entry 90, by
      rw [digitsOf_textOf, show digitsOf [] = [] from rfl]; decide⟩⟩
theorem witness_InstancesAreIndependent :
    stepInstance [State.reset, State.reset] 1 = .next [State.reset, State.reset] ∧ (0 : Nat) ≠ 1 := by
  exact ⟨rfl, by decide⟩
theorem witness_AssemblerTakesOperandsWhole :
    assembleLine (numberLine .encByte 255) = .ok [0x300000FF#32] ∧
      assembleLine (numberLine .encByte 256) = .error .operandOutOfRange ∧
      assembleLine (numberLine .alphaRd 90) = .ok [0x7000005A#32] ∧
      assembleLine (numberLine .alphaRd 91) = .error .operandOutOfRange := by decide

end Sys2Proof.Tests
end

/-! The family 10_state.md: R28 to R30, O21 and O29. First the exact append of R83 and what the drain loops
leave, then the bounds of R28 and R29 in each mode, which every accepted command, every step and so
every run keeps. -/

namespace Sys2Proof.Machine

/-! ## Appending bits -/

/-- R83: appending `k` bits above the valid ones is an addition, as long as the 21 bits hold them all. -/
theorem Accum.ins_toNat {a : Accum} {v : BitVec 21} {k : Nat} (hv : v.toNat < 2 ^ k)
    (ha : a.acc.toNat < 2 ^ a.count) (hk : a.count + k ≤ 21) :
    (a.ins v k).acc.toNat = a.acc.toNat + v.toNat * 2 ^ a.count := by
  have hshift : v.toNat * 2 ^ a.count < 2 ^ 21 :=
    calc v.toNat * 2 ^ a.count < 2 ^ k * 2 ^ a.count := Nat.mul_lt_mul_of_pos_right hv (by positivity)
      _ = 2 ^ (a.count + k) := by rw [← Nat.pow_add, Nat.add_comm]
      _ ≤ 2 ^ 21 := Nat.pow_le_pow_right (by decide) hk
  have hor := Nat.two_pow_add_eq_or_of_lt ha v.toNat
  rw [Nat.mul_comm] at hor
  rw [Accum.ins, BitVec.toNat_or, BitVec.toNat_shiftLeft, Nat.shiftLeft_eq, Nat.mod_eq_of_lt hshift,
    Nat.or_comm, ← hor, Nat.add_comm]

/-- R83: the result of an append fits in its bit count. -/
theorem Accum.ins_fits {a : Accum} {v : BitVec 21} {k : Nat} (hv : v.toNat < 2 ^ k)
    (ha : a.acc.toNat < 2 ^ a.count) (hk : a.count + k ≤ 21) :
    (a.ins v k).acc.toNat < 2 ^ (a.ins v k).count := by
  rw [Accum.ins_toNat hv ha hk, Accum.ins_count, Nat.pow_add]
  calc a.acc.toNat + v.toNat * 2 ^ a.count
      < 2 ^ a.count + v.toNat * 2 ^ a.count := Nat.add_lt_add_right ha _
    _ = (v.toNat + 1) * 2 ^ a.count := by ring
    _ ≤ 2 ^ k * 2 ^ a.count := Nat.mul_le_mul_right _ hv
    _ = 2 ^ a.count * 2 ^ k := Nat.mul_comm _ _

/-- R30: an append that stays within `m` bits holds exactly the sum, in at most `m` bits. -/
theorem Accum.ins_within {a : Accum} {v : BitVec 21} {k m : Nat} (hv : v.toNat < 2 ^ k)
    (ha : a.acc.toNat < 2 ^ a.count) (hk : a.count + k ≤ m) (hm : m ≤ 21) :
    (a.ins v k).count ≤ m ∧ (a.ins v k).acc.toNat < 2 ^ m ∧
      (a.ins v k).acc.toNat = a.acc.toNat + v.toNat * 2 ^ a.count :=
  ⟨hk, (Accum.ins_fits hv ha (hk.trans hm)).trans_le (Nat.pow_le_pow_right (by decide) hk),
    Accum.ins_toNat hv ha (hk.trans hm)⟩

theorem byteBits_lt (n : Byte) : (byteBits n).toNat < 2 ^ 8 := by
  rw [byteBits_toNat]
  exact n.isLt

theorem loneBits_lt (l : BitVec 7) : (loneBits l).toNat < 2 ^ 7 := by
  rw [loneBits_toNat]
  exact l.isLt

/-- The 13-bit word as DEC_SYM appends it, `zext_21(w)` (R110). -/
theorem streamWord_setWidth_toNat (w : StreamWord) : (w.setWidth 21).toNat = w.toNat :=
  BitVec.toNat_setWidth_of_le (by decide)

theorem streamWord_setWidth_lt (w : StreamWord) : (w.setWidth 21).toNat < 2 ^ 13 := by
  rw [streamWord_setWidth_toNat]
  exact w.isLt

/-! ## What the drain loops leave -/

theorem drainWords_fits {a : Accum} (ha : a.acc.toNat < 2 ^ a.count) (rounds : Nat) :
    (drainWords rounds a).2.acc.toNat < 2 ^ (drainWords rounds a).2.count := by
  induction rounds generalizing a with
  | zero => exact ha
  | succ rounds ih =>
    by_cases hc : 13 ≤ a.count
    · rw [drainWords_round hc]
      exact ih (Accum.drop_fits ha hc)
    · rwa [drainWords_stops (by omega)]

/-- Enough rounds leave less than a word. -/
theorem drainWords_count_lt {a : Accum} {rounds : Nat} (h : a.count < 13 * (rounds + 1)) :
    (drainWords rounds a).2.count < 13 := by
  induction rounds generalizing a with
  | zero => exact h
  | succ rounds ih =>
    by_cases hc : 13 ≤ a.count
    · rw [drainWords_round hc]
      exact ih (by rw [Accum.drop_count]; omega)
    · rw [drainWords_stops (by omega)]
      exact not_le.mp hc

theorem drainBytes_fits {a : Accum} (ha : a.acc.toNat < 2 ^ a.count) (rounds : Nat) :
    (drainBytes rounds a).2.acc.toNat < 2 ^ (drainBytes rounds a).2.count := by
  induction rounds generalizing a with
  | zero => exact ha
  | succ rounds ih =>
    by_cases hc : 8 ≤ a.count
    · rw [drainBytes_round hc]
      exact ih (Accum.drop_fits ha hc)
    · rwa [drainBytes_stops (by omega)]

/-- Enough rounds leave less than a byte. -/
theorem drainBytes_count_lt {a : Accum} {rounds : Nat} (h : a.count < 8 * (rounds + 1)) :
    (drainBytes rounds a).2.count < 8 := by
  induction rounds generalizing a with
  | zero => exact h
  | succ rounds ih =>
    by_cases hc : 8 ≤ a.count
    · rw [drainBytes_round hc]
      exact ih (by rw [Accum.drop_count]; omega)
    · rw [drainBytes_stops (by omega)]
      exact not_le.mp hc

/-! ## R28 and R29, mode by mode -/

theorem State.legal_iff_of_enc {s : State} (hm : s.mode = .enc) :
    s.Legal ↔ s.AccFits ∧ s.bcnt.toNat ≤ 12 ∧ s.lv = false ∧ s.lval = 0 := by
  simp [State.legal_iff, hm]

theorem State.legal_iff_of_dec {s : State} (hm : s.mode = .dec) :
    s.Legal ↔ s.AccFits ∧ s.bcnt.toNat ≤ 7 ∧ (s.lv = true → s.lval.toNat ≤ 90) ∧
      (s.lv = false → s.lval = 0) := by
  simp [State.legal_iff, hm]

/-- A state that holds nothing is within the bounds of every mode. -/
theorem State.legal_of_empty {s : State} (ha : s.acc = 0) (hb : s.bcnt = 0) (hv : s.lv = false)
    (hl : s.lval = 0) : s.Legal := by
  simp [State.legal_iff, State.AccFits, State.IdleClear, State.EncBounded, State.DecBounded,
    ha, hb, hv, hl]

theorem State.Legal.accFits {s : State} (h : s.Legal) : s.accum.acc.toNat < 2 ^ s.accum.count :=
  (State.legal_iff.mp h).1

theorem State.Legal.bcnt_le_of_enc {s : State} (h : s.Legal) (hm : s.mode = .enc) :
    s.bcnt.toNat ≤ 12 := by
  obtain ⟨-, hb, -, -⟩ := (State.legal_iff_of_enc hm).mp h
  exact hb

theorem State.Legal.bcnt_le_of_dec {s : State} (h : s.Legal) (hm : s.mode = .dec) :
    s.bcnt.toNat ≤ 7 := by
  obtain ⟨-, hb, -, -⟩ := (State.legal_iff_of_dec hm).mp h
  exact hb

/-- A count below 32 is stored in `BCNT` whole. -/
theorem State.setAccum_bcnt_toNat {a : Accum} (s : State) (h : a.count < 32) :
    (s.setAccum a).bcnt.toNat = a.count := by
  rw [State.setAccum_bcnt, BitVec.toNat_ofNat]
  exact Nat.mod_eq_of_lt h

theorem State.setAccum_accFits {a : Accum} (s : State) (ha : a.acc.toNat < 2 ^ a.count)
    (h : a.count < 32) : (s.setAccum a).AccFits := by
  rwa [State.AccFits, State.setAccum_bcnt_toNat s h]

/-! ## What each accepted command leaves -/

theorem startEffect_legal (m : Mode) (s : State) : (startEffect m s).state.Legal :=
  State.legal_of_empty rfl rfl rfl rfl

theorem decEndEffect_legal (s : State) : (decEndEffect s).state.Legal :=
  State.legal_of_empty rfl rfl rfl rfl

/-- ENC_END keeps `LV` and `LVAL`, which an encode session has at zero. -/
theorem encEndEffect_legal (A : Alphabet) {s : State} (hl : s.Legal) (hm : s.mode = .enc) :
    (encEndEffect A s).state.Legal := by
  obtain ⟨-, -, hv, hz⟩ := (State.legal_iff_of_enc hm).mp hl
  exact State.legal_of_empty rfl rfl hv hz

theorem encByteEffect_legal (A : Alphabet) (n : Byte) {s : State} (hl : s.Legal)
    (hm : s.mode = .enc) : (encByteEffect A n s).state.Legal := by
  obtain ⟨-, hb, hv, hz⟩ := (State.legal_iff_of_enc hm).mp hl
  have hsum : s.accum.count + 8 ≤ 20 := by rw [State.accum_count]; omega
  have hfits := drainWords_fits (Accum.ins_fits (byteBits_lt n) hl.accFits (by omega)) 3
  have hcount : (drainWords 3 (s.accum.ins (byteBits n) 8)).2.count < 13 :=
    drainWords_count_lt (by rw [Accum.ins_count]; omega)
  refine (State.legal_iff_of_enc (s := (encByteEffect A n s).state) hm).mpr
    ⟨State.setAccum_accFits s hfits (by omega), ?_, hv, hz⟩
  rw [encByteEffect, State.setAccum_bcnt_toNat s (by omega)]
  omega

/-- The bounds on a pending digit are DEC's own: a digit is at most 90. -/
theorem State.setPending_legal {s : State} (d : Digit) (hl : s.Legal) (hm : s.mode = .dec) :
    (s.setPending d).Legal := by
  obtain ⟨hf, hb, -, -⟩ := (State.legal_iff_of_dec hm).mp hl
  have hd : d.bits.toNat ≤ 90 := by rw [Digit.bits_toNat]; omega
  exact (State.legal_iff_of_dec (s := s.setPending d) hm).mpr ⟨hf, hb, fun _ => hd, nofun⟩

theorem State.clearPending_legal {s : State} (hl : s.Legal) (hm : s.mode = .dec) :
    s.clearPending.Legal := by
  obtain ⟨hf, hb, -, -⟩ := (State.legal_iff_of_dec hm).mp hl
  exact (State.legal_iff_of_dec (s := s.clearPending) hm).mpr ⟨hf, hb, nofun, fun _ => rfl⟩

theorem decWordEffect_legal (w : StreamWord) {s : State} (hl : s.Legal) (hm : s.mode = .dec) :
    (decWordEffect w s).state.Legal := by
  obtain ⟨-, hb, hv⟩ := (State.legal_iff_of_dec hm).mp hl
  have hsum : s.accum.count + 13 ≤ 20 := by rw [State.accum_count]; omega
  have hfits := drainBytes_fits
    (Accum.ins_fits (streamWord_setWidth_lt w) hl.accFits (by omega)) 5
  have hcount : (drainBytes 5 (s.accum.ins (w.setWidth 21) 13)).2.count < 8 :=
    drainBytes_count_lt (by rw [Accum.ins_count]; omega)
  refine (State.legal_iff_of_dec (s := (decWordEffect w s).state) hm).mpr
    ⟨State.setAccum_accFits s hfits (by omega), ?_, hv⟩
  rw [decWordEffect, State.setAccum_bcnt_toNat s (by omega)]
  omega

theorem decDigitEffect_legal (d : Digit) {s : State} (hl : s.Legal) (hm : s.mode = .dec) :
    (decDigitEffect d s).state.Legal := by
  unfold decDigitEffect
  split
  · exact State.setPending_legal d hl hm
  · cases combine s.lval.toNat d.val with
    | none => exact State.clearPending_legal hl hm
    | some w => exact decWordEffect_legal w (State.clearPending_legal hl hm) hm

theorem decSymEffect_legal (A : Alphabet) (cp : CodePoint) {s : State} (hl : s.Legal)
    (hm : s.mode = .dec) : (decSymEffect A cp s).state.Legal := by
  unfold decSymEffect
  cases symDigit A cp with
  | none => exact hl
  | some d => exact decDigitEffect_legal d hl hm

/-- R28, R29: every command keeps the bounds when it is issued in a mode R133 allows. -/
theorem effectOf_legal {i : Instr} {s : State} (hl : s.Legal) (hm : modeOK s.mode i = true) :
    (effectOf i s).state.Legal := by
  cases i with
  | nop => exact hl
  | startEnc => exact startEffect_legal .enc s
  | startDec => exact startEffect_legal .dec s
  | encByte n => exact encByteEffect_legal _ n hl (of_decide_eq_true hm)
  | encEnd => exact encEndEffect_legal _ hl (of_decide_eq_true hm)
  | decSym cp => exact decSymEffect_legal _ cp hl (of_decide_eq_true hm)
  | decEnd => exact decEndEffect_legal s
  | alphaRd _ => exact hl
  | revRd _ => exact hl

/-! ## Steps and runs -/

theorem reject_legal (c : Cause) {s : State} (hl : s.Legal) : (reject c s).Legal := by
  obtain ⟨hm, ha, hb, hv, hz, -⟩ := reject_session c s
  exact (State.legal_congr hm ha hb hv hz).mpr hl

theorem complete_legal {e : Effect} (hl : e.state.Legal) : (complete e).Legal := by
  obtain ⟨hm, ha, hb, hv, hz, -⟩ := complete_session e
  exact (State.legal_congr hm ha hb hv hz).mpr hl

theorem exec_legal {i : Instr} {s t : State} (h : exec i s = .next t) : t.Legal := by
  obtain ⟨hl, ⟨c, -, rfl⟩ | ⟨hc, rfl⟩⟩ := exec_cases h
  · exact reject_legal c hl
  · obtain ⟨-, hm⟩ := check_eq_none.mp hc
    exact complete_legal (effectOf_legal hl hm)

theorem step_keeps_legal {s t : State} (hl : s.Legal) (h : step s = .next t) : t.Legal := by
  obtain ⟨-, rfl⟩ | ⟨rest, -, rfl⟩ | ⟨w, rest, e, -, -, -, rfl⟩ | ⟨w, rest, i, -, -, hexec⟩ :=
    step_cases h
  · exact hl
  · exact State.legal_of_empty rfl rfl rfl rfl
  · exact reject_legal _ hl
  · exact exec_legal hexec

/-- R28, R29: the bounds hold at reset, the host's queue has no part in them, and every step keeps them. -/
theorem Reachable.legal {s : State} (h : Reachable s) : s.Legal := by
  induction h with
  | reset => exact State.legal_of_empty rfl rfl rfl rfl
  | queue s acts _ ih => exact ih
  | step s t _ hstep ih => exact step_keeps_legal ih hstep

/-- Settles O21: the two rules are the check `State.legal`, an invariant of every run. -/
theorem reachableStatesMeetTheBounds : Obligations.ReachableStatesMeetTheBounds :=
  fun _ h => State.legal_iff.mp h.legal

/-! ## The bits held during a command -/

theorem loneAccum_of_pending {s : State} (h : s.lv = true) :
    loneAccum s = s.accum.ins (loneBits s.lval) 7 := if_pos h

theorem loneAccum_of_not_pending {s : State} (h : s.lv = false) : loneAccum s = s.accum :=
  if_neg (by simp [h])

/-- R30 at DEC_END: without a digit nothing is appended, and `LVAL` is 0. -/
theorem loneAccum_within {s : State} (hl : s.Legal) (hm : s.mode = .dec) :
    (loneAccum s).count ≤ 14 ∧ (loneAccum s).acc.toNat < 2 ^ 14 ∧
      (loneAccum s).acc.toNat = s.acc.toNat + s.lval.toNat * 2 ^ s.bcnt.toNat := by
  obtain ⟨hf, hb, -, hz⟩ := (State.legal_iff_of_dec hm).mp hl
  cases hv : s.lv with
  | true =>
    have hsum : s.accum.count + 7 ≤ 14 := by rw [State.accum_count]; omega
    simpa [loneAccum_of_pending hv] using
      Accum.ins_within (loneBits_lt s.lval) hl.accFits hsum (by decide)
  | false =>
    rw [loneAccum_of_not_pending hv, hz hv]
    have hpow : 2 ^ s.bcnt.toNat ≤ 2 ^ 14 := Nat.pow_le_pow_right (by decide) (by omega)
    refine ⟨?_, hf.trans_le hpow, by simp⟩
    rw [State.accum_count]
    omega

/-- Settles O29: R29 leaves room for the 8, 13 or 7 bits each command appends. -/
theorem commandBitsStayWithinTwenty : Obligations.CommandBitsStayWithinTwenty := by
  refine fun s hl => ⟨fun hm n => ?_, fun hm w => ?_, loneAccum_within hl⟩
  · have hsum : s.accum.count + 8 ≤ 20 := Nat.add_le_add_right (hl.bcnt_le_of_enc hm) 8
    simpa only [byteBits_toNat, State.accum_acc, State.accum_count] using
      Accum.ins_within (byteBits_lt n) hl.accFits hsum (by decide)
  · have hsum : s.accum.count + 13 ≤ 20 := Nat.add_le_add_right (hl.bcnt_le_of_dec hm) 13
    simpa only [streamWord_setWidth_toNat, State.accum_acc, State.accum_count] using
      Accum.ins_within (streamWord_setWidth_lt w) hl.accFits hsum (by decide)

end Sys2Proof.Machine

/-! The family 20_memory.md: R41, R44, R45, R48, R50 and R52 (O48, O51, O32, O35, O36 and O34). First what the
output of a program of commands is, one command at a time (R62, R66, R68, R90). -/

namespace Sys2Proof

/-- R63: an operand zero-extended to 21 bits is read back from the low bits of `ARG`. -/
theorem extractLsb'_low_setWidth {m : Nat} (x : BitVec m) (h : m ≤ 21) :
    (x.setWidth 21).extractLsb' 0 m = x := by
  ext k hk
  simp [show k < 21 by omega, BitVec.getLsbD_eq_getElem hk]

/-- R62: the bits of `ARG` above a zero-extended operand are zero. -/
theorem extractLsb'_high_setWidth {m : Nat} (x : BitVec m) (n : Nat) :
    (x.setWidth 21).extractLsb' m n = 0 := by
  ext k hk
  simp

/-- R62: the word of a well-formed command decodes to it. -/
theorem decode_encode {i : Instr} (h : i.WellFormed) : decode (encode i) = .ok i := by
  obtain ⟨hop, hrsv, harg⟩ := Laws.EncodedFields.fields_of_append i.opcode i.argument
  rw [decode, encode, hop, hrsv, harg]
  cases i with
  | encByte n =>
    simp [Instr.opcode, Instr.argument, decodeOperand, decodeEncByte, extractLsb'_low_setWidth,
      extractLsb'_high_setWidth]
  | alphaRd idx =>
    have hidx : idx.toNat ≤ 90 := of_decide_eq_true h
    simp [Instr.opcode, Instr.argument, decodeOperand, decodeAlphaRd, extractLsb'_low_setWidth,
      extractLsb'_high_setWidth, hidx]
  | nop | startEnc | startDec | encEnd | decSym _ | decEnd | revRd _ =>
    simp [Instr.opcode, Instr.argument, decodeOperand, decodeBare]

end Sys2Proof

namespace Sys2Proof.Machine

/-! ## Responses -/

theorem respCount_respWord {out : List Byte} (h : out.length ≤ 2) (rej : Bool) (e : BitVec 2) :
    respCount (respWord out rej e) = out.length := by
  have hfield : (respWord out rej e).extractLsb' 16 2 = BitVec.ofNat 2 out.length := by
    ext k hk
    simp only [respWord, BitVec.getElem_extractLsb', BitVec.getLsbD_append]
    simp [show ¬ 16 + k < 8 by omega, show ¬ 16 + k - 8 < 8 by omega, show 16 + k - 8 - 8 = k by omega,
      hk]
  rw [respCount, hfield, BitVec.toNat_ofNat]
  omega

theorem respOut0_respWord (out : List Byte) (rej : Bool) (e : BitVec 2) :
    respOut0 (respWord out rej e) = out[0]?.getD 0#8 := by
  ext k hk
  simp only [respOut0, respWord, BitVec.getElem_extractLsb', BitVec.getLsbD_append]
  simp [hk]

theorem respOut1_respWord (out : List Byte) (rej : Bool) (e : BitVec 2) :
    respOut1 (respWord out rej e) = out[1]?.getD 0#8 := by
  ext k hk
  simp only [respOut1, respWord, BitVec.getElem_extractLsb', BitVec.getLsbD_append]
  simp [show ¬ 8 + k < 8 by omega, hk]

/-- R66: the host reads back the items of a response that holds at most two. -/
theorem respItems_respWord {out : List Byte} (h : out.length ≤ 2) (rej : Bool) (e : BitVec 2) :
    respItems (respWord out rej e) = out := by
  rw [respItems, respCount_respWord h, respOut0_respWord, respOut1_respWord]
  match out, h with
  | [], _ => rfl
  | [_], _ => rfl
  | [_, _], _ => rfl

/-! ## Programs of commands -/

/-- R159: issuing a command's word runs the command. -/
theorem issue_encode {i : Instr} (h : i.WellFormed) (s : State) :
    issue (encode i) s = exec i (s.withHost []) := by
  simp only [issue, step, fetch_command (State.withHost_host s _), decode_encode h]
  rfl

/-- R68: a legal state accepts a well-formed command that its mode allows. -/
theorem exec_of_accepted {i : Instr} {s : State} (hl : s.Legal) (hwf : i.WellFormed)
    (hm : modeOK s.mode i = true) : exec i s = .next (complete (effectOf i s)) := by
  rw [exec_eq_perform]
  exact perform_of_check _ hl (check_eq_none.mpr ⟨hwf, hm⟩)

theorem programOutput_nil (s : State) : programOutput [] s = some [] := rfl

/-- R90: a program's output is its first command's items, then the output of the rest. -/
theorem programOutput_cons {i : Instr} (hwf : i.WellFormed) (rest : List Instr) {s t : State}
    (h : issue (encode i) s = .next t) :
    programOutput (i :: rest) s = (programOutput rest t).map fun out =>
      (if isSessionData i then respItems t.respQ else []) ++ out := by
  simp only [programOutput, sessionOutput, List.map_cons, runWords, h, Option.map_map]
  congr 1
  funext r
  simp [outputOf, decode_encode hwf, State.respPort]

/-- R90: an accepted session command with at most two items adds exactly these to the output. -/
theorem programOutput_cons_of_session {i : Instr} {s : State} {rest : List Instr} {out : List Byte}
    (hl : s.Legal) (hwf : i.WellFormed) (hm : modeOK s.mode i = true) (hd : isSessionData i = true)
    (hlen : (effectOf i (s.withHost [])).out.length ≤ 2)
    (hrest : programOutput rest (complete (effectOf i (s.withHost []))) = some out) :
    programOutput (i :: rest) s = some ((effectOf i (s.withHost [])).out ++ out) := by
  have hissue := (issue_encode hwf s).trans (exec_of_accepted (s := s.withHost []) hl hwf hm)
  rw [programOutput_cons hwf rest hissue, if_pos hd, complete_respQ, respItems_respWord hlen, hrest,
    Option.map_some]

/-- R90: an accepted command outside a session adds nothing to the output. -/
theorem programOutput_cons_of_not_session {i : Instr} {s : State} {rest : List Instr}
    (hl : s.Legal) (hwf : i.WellFormed) (hm : modeOK s.mode i = true) (hd : isSessionData i = false) :
    programOutput (i :: rest) s = programOutput rest (complete (effectOf i (s.withHost []))) := by
  have hissue := (issue_encode hwf s).trans (exec_of_accepted (s := s.withHost []) hl hwf hm)
  simp [programOutput_cons hwf rest hissue, hd]

end Sys2Proof.Machine

/-! The two ROMs: R41 and R44 for the alphabet, R45 and R48 for the reverse table, which is a digit on the
91 codes of the alphabet and the sentinel on all others. -/

namespace Sys2Proof

/-! ## The alphabet -/

/-- R41: the candidate codes as the statements write them. -/
theorem isCandidate_iff {c : Code} :
    isCandidate c = true ↔ 0x21 ≤ c.toNat ∧ c.toNat ≤ 0x7E ∧ c ≠ 0x27#7 ∧ c ≠ 0x5C#7 := by
  simp [isCandidate, and_assoc]

/-- R41: "That range leaves 92 candidate codes". -/
theorem ncard_candidates : {c : Code | isCandidate c = true}.ncard = 92 := by
  rw [Set.ncard_eq_toFinset_card']
  decide

theorem Alphabet.ncard_range_code (A : Alphabet) : (Set.range A.code).ncard = 91 := by
  rw [Set.ncard_range_of_injective A.distinct, Nat.card_fin]

/-- R41: of 92 candidates, 91 are in the alphabet. -/
theorem Alphabet.existsUnique_candidate_left_out (A : Alphabet) :
    ∃! c : Code, isCandidate c = true ∧ ∀ i : Digit, A.code i ≠ c := by
  have hsub : Set.range A.code ⊆ {c | isCandidate c = true} := by
    rintro _ ⟨i, rfl⟩
    exact A.candidate i
  have hone : ({c | isCandidate c = true} \ Set.range A.code).ncard = 1 := by
    rw [Set.ncard_sdiff hsub, ncard_candidates, A.ncard_range_code]
  obtain ⟨c, hc⟩ := Set.ncard_eq_one.mp hone
  have hiff (d : Code) : (isCandidate d = true ∧ ∀ i : Digit, A.code i ≠ d) ↔ d = c := by
    simpa using Set.ext_iff.mp hc d
  exact ⟨c, (hiff c).mpr rfl, fun d => (hiff d).mp⟩

/-- R44: the candidate that `ALPHA_DEFAULT` leaves out. -/
theorem alphaDefaultCode_ne_left_out : ∀ i : Digit, alphaDefaultCode i ≠ 0x24#7 := by decide

end Sys2Proof

namespace Sys2Proof.Machine

/-- Settles O32: the ROM reads the alphabet, whose entries are distinct candidates. -/
theorem alphabetConforms : Obligations.AlphabetConforms := by
  unfold Obligations.AlphabetConforms
  simp only [alphaRead_eq_code, ← isCandidate_iff]
  exact ⟨Config.alpha.distinct, Config.alpha.candidate,
    Config.alpha.existsUnique_candidate_left_out⟩

/-- Settles O34: the ROM reads `ALPHA_DEFAULT`'s own entries. -/
theorem defaultAlphabetEntries : Obligations.DefaultAlphabetEntries := by
  intro i
  rw [alphaRead_eq_code]
  exact ⟨rfl, alphaDefaultCode_ne_left_out i⟩

/-! ## The reverse table -/

theorem Digit.bits_injective : Function.Injective Digit.bits := fun i j h => by
  simpa [Fin.ext_iff] using congrArg BitVec.toNat h

theorem Digit.bits_ne_sentinel (i : Digit) : Digit.bits i ≠ Config.sentinel := fun h => by
  have := congrArg BitVec.toNat h
  rw [Digit.bits_toNat] at this
  have : Config.sentinel.toNat = 127 := rfl
  omega

/-- R45: the reverse table holds the digit of a symbol. -/
theorem revRead_code (A : Alphabet) (i : Digit) : revRead A (A.code i) = Digit.bits i := by
  rw [revRead, symbolIndex_eq_some.mpr rfl]

/-- R45: the reverse table holds the sentinel for what is no symbol. -/
theorem revRead_of_no_symbol {A : Alphabet} {c : Code} (h : ∀ i : Digit, A.code i ≠ c) :
    revRead A c = Config.sentinel := by
  rw [revRead, symbolIndex_eq_none.mpr h]

/-- R45: all that the reverse table can hold. -/
theorem revRead_cases (A : Alphabet) (c : Code) :
    (∃ i, A.code i = c ∧ revRead A c = Digit.bits i) ∨
      ((∀ i : Digit, A.code i ≠ c) ∧ revRead A c = Config.sentinel) := by
  by_cases h : ∃ i, A.code i = c
  · obtain ⟨i, rfl⟩ := h
    exact .inl ⟨i, rfl, revRead_code A i⟩
  · have hno : ∀ i : Digit, A.code i ≠ c := fun i hi => h ⟨i, hi⟩
    exact .inr ⟨hno, revRead_of_no_symbol hno⟩

theorem revRead_eq_bits {A : Alphabet} {c : Code} {i : Digit} :
    revRead A c = Digit.bits i ↔ A.code i = c := by
  refine ⟨fun h => ?_, ?_⟩
  · obtain ⟨j, hj, hr⟩ | ⟨-, hr⟩ := revRead_cases A c
    · rwa [Digit.bits_injective (h.symm.trans hr)]
    · exact absurd (h.symm.trans hr) (Digit.bits_ne_sentinel i)
  · rintro rfl
    exact revRead_code A i

theorem revRead_eq_sentinel {A : Alphabet} {c : Code} :
    revRead A c = Config.sentinel ↔ ∀ i : Digit, A.code i ≠ c := by
  refine ⟨fun h i hi => ?_, revRead_of_no_symbol⟩
  exact Digit.bits_ne_sentinel i ((revRead_eq_bits.mpr hi).symm.trans h)

theorem revRead_toNat_le {A : Alphabet} {c : Code} :
    (revRead A c).toNat ≤ 90 ↔ c ∈ Set.range A.code := by
  obtain ⟨i, hi, hr⟩ | ⟨hno, hr⟩ := revRead_cases A c
  · rw [hr, Digit.bits_toNat]
    exact iff_of_true (by omega) ⟨i, hi⟩
  · rw [hr]
    exact iff_of_false (by decide) fun ⟨i, hi⟩ => hno i hi

/-- Settles O35: the digits of the table are the 91 codes of the alphabet, the sentinels the others. -/
theorem reverseTableInvertsAlphabet : Obligations.ReverseTableInvertsAlphabet := by
  intro A
  have hdigits : {c : Code | (revRead A c).toNat ≤ 90} = Set.range A.code :=
    Set.ext fun _ => revRead_toNat_le
  have hsentinel : {c : Code | revRead A c = Config.sentinel} = (Set.range A.code)ᶜ :=
    Set.ext fun c => by simp [revRead_eq_sentinel]
  refine ⟨revRead_code A, fun c => revRead_of_no_symbol, fun c i => revRead_eq_bits.mp, ?_, ?_⟩
  · rw [hdigits, A.ncard_range_code]
  · rw [hsentinel, Set.ncard_compl, A.ncard_range_code, Nat.card_congr BitVec.equivFin.toEquiv,
      Nat.card_fin]
    decide

/-! ## Classifying a code point -/

theorem symDigit_of_high (A : Alphabet) {cp : CodePoint} (h : 127 < cp.toNat) :
    symDigit A cp = none := if_pos h

theorem symDigit_of_low (A : Alphabet) {cp : CodePoint} (h : cp.toNat ≤ 127) :
    symDigit A cp = symbolIndex A (BitVec.ofNat 7 cp.toNat) := by
  rw [symDigit, if_neg (not_lt.mpr h), BitVec.extractLsb', Nat.shiftRight_zero]

/-- R48: `SymDigit` answers the digit whose entry equals the code point, all 21 bits of it. -/
theorem symDigit_eq_some {A : Alphabet} {cp : CodePoint} {d : Digit} :
    symDigit A cp = some d ↔ (A.code d).toNat = cp.toNat := by
  have hcode := (A.code d).isLt
  by_cases h : cp.toNat ≤ 127
  · rw [symDigit_of_low A h, symbolIndex_eq_some, ← BitVec.toNat_inj, BitVec.toNat_ofNat,
      Nat.mod_eq_of_lt (by omega)]
  · rw [symDigit_of_high A (by omega)]
    exact iff_of_false nofun (by omega)

/-- Settles O36: up to 127 the classification and the reverse table are one look-up. -/
theorem symDigitClassifies : Obligations.SymDigitClassifies := by
  refine fun A cp => ⟨symDigit_of_high A, fun hlow hr => ?_, fun hlow hr => ?_⟩
  · rw [symDigit_of_low A hlow]
    exact symbolIndex_eq_none.mpr (revRead_eq_sentinel.mp hr)
  · obtain ⟨i, hi, hbits⟩ | ⟨-, hs⟩ := revRead_cases A (BitVec.ofNat 7 cp.toNat)
    · rw [symDigit_of_low A hlow, symbolIndex_eq_some.mpr hi, hbits, Digit.bits_toNat]
      rfl
    · exact absurd hs hr

end Sys2Proof.Machine

/-! Pending bits as the low end of a stream whose other bits `x` are yet to come (R50, R52): the value of the
stream is `acc + 2 ^ count * x`. -/

namespace Sys2Proof.Machine

/-- R84: taking `k` valid bits off the pending ones divides the whole stream above them. -/
theorem Accum.drop_stream {a : Accum} {k : Nat} (hk : k ≤ a.count) (x : Nat) :
    (a.drop k).acc.toNat + 2 ^ (a.drop k).count * x = (a.acc.toNat + 2 ^ a.count * x) / 2 ^ k := by
  obtain ⟨m, hm⟩ := Nat.exists_eq_add_of_le hk
  rw [Accum.drop_toNat, Accum.drop_count, hm, Nat.add_sub_cancel_left, Nat.pow_add, Nat.mul_assoc,
    Nat.add_mul_div_left _ _ (by positivity)]

/-- R84: the `k` oldest bits of the stream are the `k` oldest pending ones. -/
theorem Accum.low_stream {a : Accum} {k : Nat} (hk : k ≤ a.count) (x : Nat) :
    (a.low k).toNat = (a.acc.toNat + 2 ^ a.count * x) % 2 ^ k := by
  obtain ⟨m, hm⟩ := Nat.exists_eq_add_of_le hk
  rw [Accum.low_toNat, hm, Nat.pow_add, Nat.mul_assoc, Nat.add_mul_mod_self_left]

/-- R83: appending `k` bits moves them from the rest of the stream to the pending ones. -/
theorem Accum.ins_stream {a : Accum} {v : BitVec 21} {k : Nat} (hv : v.toNat < 2 ^ k)
    (ha : a.acc.toNat < 2 ^ a.count) (hk : a.count + k ≤ 21) (x : Nat) :
    (a.ins v k).acc.toNat + 2 ^ (a.ins v k).count * x =
      a.acc.toNat + 2 ^ a.count * (v.toNat + 2 ^ k * x) := by
  rw [Accum.ins_toNat hv ha hk, Accum.ins_count]
  ring

/-- R100: every word taken out removes 13 bits. -/
theorem drainWords_length (rounds : Nat) (a : Accum) :
    13 * (drainWords rounds a).1.length + (drainWords rounds a).2.count = a.count := by
  induction rounds generalizing a with
  | zero => simp [drainWords]
  | succ rounds ih =>
    by_cases hc : 13 ≤ a.count
    · have := ih (a.drop 13)
      rw [Accum.drop_count] at this
      simp only [drainWords_round hc, List.length_cons]
      omega
    · simp [drainWords_stops (not_le.mp hc)]

/-- R110: every byte taken out removes 8 bits. -/
theorem drainBytes_length (rounds : Nat) (a : Accum) :
    8 * (drainBytes rounds a).1.length + (drainBytes rounds a).2.count = a.count := by
  induction rounds generalizing a with
  | zero => simp [drainBytes]
  | succ rounds ih =>
    by_cases hc : 8 ≤ a.count
    · have := ih (a.drop 8)
      rw [Accum.drop_count] at this
      simp only [drainBytes_round hc, List.length_cons]
      omega
    · simp [drainBytes_stops (not_le.mp hc)]

/-- A count stored in `BCNT` whole leaves the accumulator's pending bits in the state. -/
theorem State.setAccum_accum {a : Accum} (s : State) (h : a.count < 32) : (s.setAccum a).accum = a := by
  rw [State.accum, State.setAccum_bcnt_toNat s h, State.setAccum_acc]

/-- R68: answering leaves the pending bits. -/
@[simp] theorem complete_accum (e : Effect) : (complete e).accum = e.state.accum := rfl

/-- R91, R92: a new session has no pending bits. -/
theorem startEffect_accum (m : Mode) (s : State) : (startEffect m s).state.accum = Accum.empty := rfl

end Sys2Proof.Machine

/-! The encode stream of R50. The induction's invariant: the bits an encode session still has to
emit are the pending bits with the remaining bytes above them. -/

namespace Sys2Proof.Machine

open Sys2Proof.Claims

/-! ## The symbols of a bit stream -/

/-- R51: the two symbols of the word `w`, low digit first. -/
def pairSymbols (w : Nat) : List Byte :=
  [BitVec.ofNat 8 (entry (w % 91)), BitVec.ofNat 8 (entry (w / 91))]

/-- R103: the symbols of a flush of `r` leftover bits with the value `w`. -/
def leftoverSymbols (w r : Nat) : List Byte :=
  if r = 0 then [] else if r ≤ 6 then (pairSymbols w).take 1 else pairSymbols w

/-- R50, R103: the symbols of a stream of `n` bits with the value `v`; `streamSymbols` for any number of
bits. -/
def bitSymbols (v n : Nat) : List Byte :=
  ((List.range (n / 13)).map fun j => pairSymbols (v / 2 ^ (13 * j) % 2 ^ 13)).flatten
    ++ leftoverSymbols (v / 2 ^ (13 * (n / 13))) (n % 13)

theorem streamSymbols_eq_bitSymbols (v n : Nat) : streamSymbols v n = bitSymbols v (8 * n) := rfl

/-- A stream without a full word is flushed. -/
theorem bitSymbols_of_lt {n : Nat} (h : n < 13) (v : Nat) : bitSymbols v n = leftoverSymbols v n := by
  simp [bitSymbols, Nat.div_eq_of_lt h, Nat.mod_eq_of_lt h]

/-- The first word of a stream, then the stream above it. -/
theorem bitSymbols_of_le {n : Nat} (h : 13 ≤ n) (v : Nat) :
    bitSymbols v n = pairSymbols (v % 2 ^ 13) ++ bitSymbols (v / 2 ^ 13) (n - 13) := by
  obtain ⟨m, rfl⟩ := Nat.exists_eq_add_of_le' h
  have hshift (j : Nat) : v / 2 ^ 13 / 2 ^ (13 * j) = v / 2 ^ (13 * (j + 1)) := by
    rw [Nat.div_div_eq_div_mul, ← Nat.pow_add, Nat.mul_succ, Nat.add_comm]
  simp [bitSymbols, List.range_succ_eq_map, hshift, Function.comp_def, -Nat.reducePow]

theorem codeItem_alphaRead (d : Digit) :
    codeItem (alphaRead Config.alpha d) = BitVec.ofNat 8 (entry d.val) := by
  apply BitVec.eq_of_toNat_eq
  have := (Config.alpha.code d).isLt
  rw [codeItem_toNat, alphaRead_eq_code, entry, Fin.ofNat_val_eq_self, BitVec.toNat_ofNat]
  omega

/-- R80, R51: the symbols of a full word. -/
theorem wordSymbols_eq_pairSymbols (w : StreamWord) :
    wordSymbols Config.alpha w = pairSymbols w.toNat := by
  simp [wordSymbols, codeItem_alphaRead, split, pairSymbols]

/-! ## The encoder's output -/

/-- R100: taking words out of the pending bits, then emitting the rest of the stream, emits the stream. -/
theorem drainWords_stream (rounds : Nat) (a : Accum) (x m : Nat) :
    (drainWords rounds a).1.flatMap (wordSymbols Config.alpha) ++
        bitSymbols ((drainWords rounds a).2.acc.toNat + 2 ^ (drainWords rounds a).2.count * x)
          ((drainWords rounds a).2.count + m) =
      bitSymbols (a.acc.toNat + 2 ^ a.count * x) (a.count + m) := by
  induction rounds generalizing a with
  | zero => rfl
  | succ rounds ih =>
    by_cases hc : 13 ≤ a.count
    · rw [drainWords_round hc, List.flatMap_cons, List.append_assoc, ih, Accum.drop_stream hc,
        wordSymbols_eq_pairSymbols, Accum.low_stream hc x, Accum.drop_count,
        bitSymbols_of_le (n := a.count + m) (by omega), Nat.sub_add_comm hc]
    · rw [drainWords_stops (not_le.mp hc)]
      rfl

/-- R50: what an encode session in the state `s` still has to emit when `data` is yet to come. -/
def encodeRest (s : State) (data : List Byte) : List Byte :=
  bitSymbols (s.accum.acc.toNat + 2 ^ s.accum.count * byteStream data)
    (s.accum.count + 8 * data.length)

/-- R100: ENC_BYTE emits the part of the stream that its byte completes. -/
theorem encByteEffect_stream (n : Byte) (data : List Byte) {s : State} (hl : s.Legal)
    (hm : s.mode = .enc) :
    (encByteEffect Config.alpha n s).out ++
        encodeRest (encByteEffect Config.alpha n s).state data = encodeRest s (n :: data) := by
  have hsum : s.accum.count + 8 ≤ 20 := Nat.add_le_add_right (hl.bcnt_le_of_enc hm) 8
  have hdrained := drainWords_length 3 (s.accum.ins (byteBits n) 8)
  rw [Accum.ins_count] at hdrained
  simp only [encByteEffect, encodeRest]
  rw [State.setAccum_accum s (by omega), drainWords_stream,
    Accum.ins_stream (byteBits_lt n) hl.accFits (by omega), Accum.ins_count, byteBits_toNat,
    byteStream, List.length_cons, Nat.mul_succ, Nat.add_assoc, Nat.add_comm 8]

/-- R100 (iv): ENC_BYTE takes out at most one word. -/
theorem encByteEffect_out_length_le (A : Alphabet) (n : Byte) {s : State} (hl : s.Legal)
    (hm : s.mode = .enc) : (encByteEffect A n s).out.length ≤ 2 := by
  have hb : s.accum.count ≤ 12 := hl.bcnt_le_of_enc hm
  have hdrained := drainWords_length 3 (s.accum.ins (byteBits n) 8)
  rw [Accum.ins_count] at hdrained
  have hout : (encByteEffect A n s).out.length =
      2 * (drainWords 3 (s.accum.ins (byteBits n) 8)).1.length := by
    simp [encByteEffect, wordSymbols, List.length_flatMap, Nat.mul_comm]
  omega

/-- R102, R103: ENC_END's symbols are what is left of a stream without further bytes. -/
theorem flushSymbols_eq_encodeRest {s : State} (hl : s.Legal) (hm : s.mode = .enc) :
    flushSymbols Config.alpha s = encodeRest s [] := by
  have hb := hl.bcnt_le_of_enc hm
  have hacc : s.acc.toNat < 2 ^ 13 :=
    hl.accFits.trans_le (Nat.pow_le_pow_right (by decide) (hb.trans (by decide)))
  have hlow : (s.accum.low 13).toNat = s.acc.toNat := by
    rw [Accum.low_toNat, State.accum_acc, Nat.mod_eq_of_lt hacc]
  have hrest : encodeRest s [] = leftoverSymbols s.acc.toNat s.bcnt.toNat := by
    simpa [encodeRest, byteStream] using bitSymbols_of_lt (by omega) s.acc.toNat
  rw [hrest, flushSymbols, leftoverSymbols, wordSymbols_eq_pairSymbols, hlow]
  by_cases hsix : s.bcnt.toNat ≤ 6
  · simp [hsix, show ¬ 7 ≤ s.bcnt.toNat by omega]
  · simp [hsix, show 7 ≤ s.bcnt.toNat by omega]

theorem flushSymbols_length_le (A : Alphabet) (s : State) : (flushSymbols A s).length ≤ 2 := by
  unfold flushSymbols
  split
  · simp
  · split <;> simp [wordSymbols]

/-- R50: an encode session emits the pending bits with the bytes to come above them. -/
theorem programOutput_encBytes (data : List Byte) {s : State} (hl : s.Legal) (hm : s.mode = .enc) :
    programOutput (encBytes data ++ [.encEnd]) s = some (encodeRest s data) := by
  have hok : decide (s.mode = .enc) = true := decide_eq_true hm
  induction data generalizing s with
  | nil =>
    have hout := programOutput_cons_of_session (i := .encEnd) (rest := []) hl rfl hok rfl
      (flushSymbols_length_le _ _) (programOutput_nil _)
    rw [List.append_nil] at hout
    exact hout.trans (congrArg some (flushSymbols_eq_encodeRest (s := s.withHost []) hl hm))
  | cons n data ih =>
    have hlegal := complete_legal (encByteEffect_legal Config.alpha n (s := s.withHost []) hl hm)
    have hout := programOutput_cons_of_session (i := .encByte n) hl rfl hok rfl
      (encByteEffect_out_length_le _ n hl hm) (ih hlegal hm hok)
    exact hout.trans (congrArg some (encByteEffect_stream n data (s := s.withHost []) hl hm))

/-- Settles O48: START_ENC leaves nothing pending, so the bits to emit are those of the bytes. -/
theorem encodeStreamIsLittleEndian : Obligations.EncodeStreamIsLittleEndian := by
  intro s data hl
  have hopened := complete_legal (startEffect_legal .enc (s.withHost []))
  have hfresh : encodeRest (complete (startEffect .enc (s.withHost []))) data =
      streamSymbols (byteStream data) data.length := by
    simp [encodeRest, startEffect_accum, streamSymbols_eq_bitSymbols]
  rw [encodeSession, programOutput_cons_of_not_session hl rfl rfl rfl, ← hfresh]
  exact programOutput_encBytes data hopened rfl

end Sys2Proof.Machine

/-! The decode stream of R52. The induction's invariant: the bits a decode session still has to emit
are the pending bits with the words of the held digit and the remaining digits above them. -/

namespace Sys2Proof.Machine

open Sys2Proof.Claims

/-! ## The bytes of a bit stream -/

/-- R52: the whole bytes of a stream of `n` bits with the value `v`. -/
def bitBytes (v n : Nat) : List Byte :=
  (List.range (n / 8)).map fun k => BitVec.ofNat 8 (v / 2 ^ (8 * k))

theorem bitBytes_of_lt {n : Nat} (h : n < 8) (v : Nat) : bitBytes v n = [] := by
  simp [bitBytes, Nat.div_eq_of_lt h]

/-- The first byte of a stream, then the stream above it. -/
theorem bitBytes_of_le {n : Nat} (h : 8 ≤ n) (v : Nat) :
    bitBytes v n = BitVec.ofNat 8 v :: bitBytes (v / 2 ^ 8) (n - 8) := by
  obtain ⟨m, rfl⟩ := Nat.exists_eq_add_of_le' h
  have hshift (k : Nat) : v / 2 ^ 8 / 2 ^ (8 * k) = v / 2 ^ (8 * (k + 1)) := by
    rw [Nat.div_div_eq_div_mul, ← Nat.pow_add, Nat.mul_succ, Nat.add_comm]
  simp [bitBytes, List.range_succ_eq_map, hshift, Function.comp_def, -Nat.reducePow]

/-- R110: taking bytes out of the pending bits, then emitting the rest of the stream, emits the stream. -/
theorem drainBytes_stream (rounds : Nat) (a : Accum) (x m : Nat) :
    (drainBytes rounds a).1 ++
        bitBytes ((drainBytes rounds a).2.acc.toNat + 2 ^ (drainBytes rounds a).2.count * x)
          ((drainBytes rounds a).2.count + m) =
      bitBytes (a.acc.toNat + 2 ^ a.count * x) (a.count + m) := by
  induction rounds generalizing a with
  | zero => rfl
  | succ rounds ih =>
    by_cases hc : 8 ≤ a.count
    · have hlow : a.low 8 = BitVec.ofNat 8 (a.acc.toNat + 2 ^ a.count * x) := by
        rw [← BitVec.toNat_inj, Accum.low_stream hc x, BitVec.toNat_ofNat]
      rw [drainBytes_round hc, List.cons_append, ih, Accum.drop_stream hc, hlow, Accum.drop_count,
        bitBytes_of_le (n := a.count + m) (by omega), Nat.sub_add_comm hc]
    · rw [drainBytes_stops (not_le.mp hc)]
      rfl

/-! ## The digits of a text -/

/-- R115: how many bits the stream of a digit list has. -/
def digitBits (ds : List Nat) : Nat := 13 * keptPairs ds + 7 * (ds.length % 2)

/-- R81, R110: a pair that does not overflow puts its word below the stream of the rest. -/
theorem digitStream_of_kept {lo hi : Nat} (h : 91 * hi + lo ≤ 8191) (ds : List Nat) :
    digitStream (lo :: hi :: ds) = 91 * hi + lo + 2 ^ 13 * digitStream ds ∧
      digitBits (lo :: hi :: ds) = 13 + digitBits ds := by
  constructor
  · rw [digitStream, if_pos h]
  · simp only [digitBits, keptPairs, if_pos h, List.length_cons]
    omega

/-- R110: a pair that overflows is no part of the stream. -/
theorem digitStream_of_overflow {lo hi : Nat} (h : ¬ 91 * hi + lo ≤ 8191) (ds : List Nat) :
    digitStream (lo :: hi :: ds) = digitStream ds ∧ digitBits (lo :: hi :: ds) = digitBits ds := by
  constructor
  · rw [digitStream, if_neg h]
  · simp only [digitBits, keptPairs, if_neg h, List.length_cons]
    omega

/-- R48: the block and the source read the same digit. -/
theorem symDigit_eq_sourceDigit (A : Alphabet) (cp : CodePoint) :
    symDigit A cp = sourceDigit A cp.toNat :=
  Option.ext fun _ => symDigit_eq_some.trans sourceDigit_eq_some.symm

theorem digitsOf_cons (cp : CodePoint) (text : List CodePoint) :
    digitsOf (cp :: text) =
      (symDigit Config.alpha cp).toList.map (·.val) ++ digitsOf text := by
  rw [digitsOf, List.filterMap_cons, ← symDigit_eq_sourceDigit]
  cases symDigit Config.alpha cp <;> rfl

/-! ## The decoder's output -/

/-- R81: which pairs have a word. -/
theorem combine_cases (lo hi : Nat) :
    (91 * hi + lo ≤ 8191 ∧ ∃ w, combine lo hi = some w ∧ w.toNat = 91 * hi + lo) ∨
      (¬ 91 * hi + lo ≤ 8191 ∧ combine lo hi = none) := by
  by_cases h : 91 * hi + lo ≤ 8191
  · refine .inl ⟨h, _, if_pos h, ?_⟩
    rw [BitVec.toNat_ofNat]
    exact Nat.mod_eq_of_lt (by simp only [Config.base]; omega)
  · exact .inr ⟨h, if_neg h⟩

/-- R24: the pending digit as the digits it stands for. -/
def State.heldDigits (s : State) : List Nat := if s.lv = true then [s.lval.toNat] else []

theorem State.heldDigits_of_pending {s : State} (h : s.lv = true) : s.heldDigits = [s.lval.toNat] :=
  if_pos h

theorem State.heldDigits_of_not_pending {s : State} (h : s.lv = false) : s.heldDigits = [] :=
  if_neg (by simp [h])

/-- R52: what a decode session in the state `s` still has to emit when the digits `ds` are yet to come. -/
def decodeRest (s : State) (ds : List Nat) : List Byte :=
  bitBytes (s.accum.acc.toNat + 2 ^ s.accum.count * digitStream (s.heldDigits ++ ds))
    (s.accum.count + digitBits (s.heldDigits ++ ds))

/-- R110: a word appended and drained is the next 13 bits of the stream. -/
theorem decWordEffect_stream (w : StreamWord) (ds : List Nat) {s : State} (hl : s.Legal)
    (hm : s.mode = .dec) (hv : s.lv = false) :
    (decWordEffect w s).out ++ decodeRest (decWordEffect w s).state ds =
      bitBytes (s.accum.acc.toNat + 2 ^ s.accum.count * (w.toNat + 2 ^ 13 * digitStream ds))
        (s.accum.count + (13 + digitBits ds)) := by
  have hsum : s.accum.count + 13 ≤ 20 := Nat.add_le_add_right (hl.bcnt_le_of_dec hm) 13
  have hdrained := drainBytes_length 5 (s.accum.ins (w.setWidth 21) 13)
  rw [Accum.ins_count] at hdrained
  have hheld (a : Accum) : (s.setAccum a).heldDigits = [] := State.heldDigits_of_not_pending hv
  simp only [decWordEffect, decodeRest, hheld, List.nil_append]
  rw [State.setAccum_accum s (by omega), drainBytes_stream,
    Accum.ins_stream (streamWord_setWidth_lt w) hl.accFits (by omega), Accum.ins_count,
    streamWord_setWidth_toNat, Nat.add_assoc]

/-- R110: a digit is held, or its pair's word is emitted, or its pair is discarded. -/
theorem decDigitEffect_stream (d : Digit) (ds : List Nat) {s : State} (hl : s.Legal)
    (hm : s.mode = .dec) :
    (decDigitEffect d s).out ++ decodeRest (decDigitEffect d s).state ds =
      decodeRest s (d.val :: ds) := by
  cases hv : s.lv with
  | false =>
    simp [decDigitEffect, decodeRest, State.heldDigits, State.accum, hv]
  | true =>
    have hrest : decodeRest s (d.val :: ds) =
        bitBytes (s.accum.acc.toNat + 2 ^ s.accum.count * digitStream (s.lval.toNat :: d.val :: ds))
          (s.accum.count + digitBits (s.lval.toNat :: d.val :: ds)) := by
      rw [decodeRest, State.heldDigits_of_pending hv, List.singleton_append]
    rw [hrest, decDigitEffect, if_neg (by simp [hv])]
    obtain ⟨hkept, w, hw, hval⟩ | ⟨hover, hw⟩ := combine_cases s.lval.toNat d.val
    · obtain ⟨hstream, hbits⟩ := digitStream_of_kept hkept ds
      rw [hw, hstream, hbits, ← hval]
      exact decWordEffect_stream w ds (State.clearPending_legal hl hm) hm rfl
    · obtain ⟨hstream, hbits⟩ := digitStream_of_overflow hover ds
      rw [hw, hstream, hbits]
      rfl

/-- R110 (i): DEC_SYM emits the part of the stream that its code point completes. -/
theorem decSymEffect_stream (cp : CodePoint) (text : List CodePoint) {s : State} (hl : s.Legal)
    (hm : s.mode = .dec) :
    (decSymEffect Config.alpha cp s).out ++
        decodeRest (decSymEffect Config.alpha cp s).state (digitsOf text) =
      decodeRest s (digitsOf (cp :: text)) := by
  rw [digitsOf_cons, decSymEffect]
  cases symDigit Config.alpha cp with
  | none => rfl
  | some d => exact decDigitEffect_stream d (digitsOf text) hl hm

theorem decDigitEffect_mode (d : Digit) (s : State) : (decDigitEffect d s).state.mode = s.mode := by
  unfold decDigitEffect
  split
  · rfl
  · split <;> rfl

theorem decSymEffect_mode (A : Alphabet) (cp : CodePoint) (s : State) :
    (decSymEffect A cp s).state.mode = s.mode := by
  unfold decSymEffect
  split
  · rfl
  · exact decDigitEffect_mode _ s

/-- R110: a completed word takes out at most two bytes. -/
theorem decWordEffect_out_length_le (w : StreamWord) {s : State} (hl : s.Legal) (hm : s.mode = .dec) :
    (decWordEffect w s).out.length ≤ 2 := by
  have hb : s.accum.count ≤ 7 := hl.bcnt_le_of_dec hm
  have hdrained := drainBytes_length 5 (s.accum.ins (w.setWidth 21) 13)
  rw [Accum.ins_count] at hdrained
  simp only [decWordEffect]
  omega

theorem decDigitEffect_out_length_le (d : Digit) {s : State} (hl : s.Legal) (hm : s.mode = .dec) :
    (decDigitEffect d s).out.length ≤ 2 := by
  unfold decDigitEffect
  split
  · simp
  · cases combine s.lval.toNat d.val with
    | none => simp
    | some w => exact decWordEffect_out_length_le w (State.clearPending_legal hl hm) hm

theorem decSymEffect_out_length_le (A : Alphabet) (cp : CodePoint) {s : State} (hl : s.Legal)
    (hm : s.mode = .dec) : (decSymEffect A cp s).out.length ≤ 2 := by
  unfold decSymEffect
  cases symDigit A cp with
  | none => simp
  | some d => exact decDigitEffect_out_length_le d hl hm

/-- R113: a lone digit's 7 bits are the end of the stream. -/
theorem loneAccum_count (s : State) :
    (loneAccum s).count = s.accum.count + digitBits s.heldDigits := by
  cases hv : s.lv with
  | true => simp [loneAccum_of_pending hv, State.heldDigits_of_pending hv, digitBits, keptPairs]
  | false =>
    simp [loneAccum_of_not_pending hv, State.heldDigits_of_not_pending hv, digitBits, keptPairs]

theorem loneAccum_toNat {s : State} (hl : s.Legal) (hm : s.mode = .dec) :
    (loneAccum s).acc.toNat =
      s.accum.acc.toNat + 2 ^ s.accum.count * digitStream s.heldDigits := by
  obtain ⟨-, -, hval⟩ := loneAccum_within hl hm
  obtain ⟨-, -, -, hz⟩ := (State.legal_iff_of_dec hm).mp hl
  rw [hval, Nat.mul_comm]
  cases hv : s.lv with
  | true => rw [State.heldDigits_of_pending hv, digitStream, State.accum_acc, State.accum_count]
  | false => simp [State.heldDigits_of_not_pending hv, hz hv, digitStream]

/-- R113: DEC_END's byte is what is left of a stream without further digits. -/
theorem decEndEffect_out {s : State} (hl : s.Legal) (hm : s.mode = .dec) :
    (decEndEffect s).out = decodeRest s [] := by
  obtain ⟨hle, -, -⟩ := loneAccum_within hl hm
  rw [decodeRest, List.append_nil, ← loneAccum_toNat hl hm, ← loneAccum_count, decEndEffect]
  by_cases hc : 8 ≤ (loneAccum s).count
  · rw [if_pos hc, bitBytes_of_le hc, bitBytes_of_lt (by omega)]
    rfl
  · rw [if_neg hc, bitBytes_of_lt (by omega)]

theorem decEndEffect_out_length_le (s : State) : (decEndEffect s).out.length ≤ 2 := by
  unfold decEndEffect
  split <;> simp

/-- R52: a decode session emits the pending bits with the digits to come above them. -/
theorem programOutput_decStr (text : List CodePoint) {s : State} (hl : s.Legal) (hm : s.mode = .dec) :
    programOutput (decStr text ++ [.decEnd]) s = some (decodeRest s (digitsOf text)) := by
  have hok : decide (s.mode = .dec) = true := decide_eq_true hm
  induction text generalizing s with
  | nil =>
    have hout := programOutput_cons_of_session (i := .decEnd) (rest := []) hl rfl hok rfl
      (decEndEffect_out_length_le _) (programOutput_nil _)
    rw [List.append_nil] at hout
    exact hout.trans (congrArg some (decEndEffect_out (s := s.withHost []) hl hm))
  | cons cp text ih =>
    have hlegal := complete_legal (decSymEffect_legal Config.alpha cp (s := s.withHost []) hl hm)
    have hmode := (decSymEffect_mode Config.alpha cp (s.withHost [])).trans hm
    have hout := programOutput_cons_of_session (i := .decSym cp) hl rfl hok rfl
      (decSymEffect_out_length_le _ cp hl hm) (ih hlegal hmode (decide_eq_true hmode))
    exact hout.trans (congrArg some (decSymEffect_stream cp text (s := s.withHost []) hl hm))

/-- Settles O51: START_DEC leaves nothing pending, so the bits to emit are those of the text's digits. -/
theorem decodeStreamIsLittleEndian : Obligations.DecodeStreamIsLittleEndian := by
  intro s text hl
  have hopened := complete_legal (startEffect_legal .dec (s.withHost []))
  have hfresh : decodeRest (complete (startEffect .dec (s.withHost []))) (digitsOf text) =
      bitBytes (digitStream (digitsOf text)) (digitBits (digitsOf text)) := by
    have hheld : (complete (startEffect .dec (s.withHost []))).heldDigits = [] :=
      State.heldDigits_of_not_pending rfl
    simp [decodeRest, startEffect_accum, hheld]
  rw [decodeSession, programOutput_cons_of_not_session hl rfl rfl rfl]
  exact (programOutput_decStr text hopened rfl).trans (congrArg some hfresh)

end Sys2Proof.Machine

/-! The STATUS port of 30_encoding.md (R67, O40): the three registers wider than a bit are slices of the word,
the flags are single bits of it. -/

namespace Sys2Proof.Machine

/-- R20, R25: the value of `MODE` as the statement writes it. -/
theorem Mode.bits_toNat (m : Mode) :
    m.bits.toNat = match m with | .idle => 0 | .enc => 1 | .dec => 2 := by
  cases m <;> rfl

theorem State.status_mode (s : State) : s.status.extractLsb' 0 2 = s.mode.bits :=
  BitVec.extractLsb'_append_eq_right

theorem State.status_bcnt (s : State) : s.status.extractLsb' 2 5 = s.bcnt := by
  simp (disch := decide) only [State.status, BitVec.extractLsb'_append_eq_of_le, Nat.reduceSub,
    BitVec.extractLsb'_append_eq_right]

theorem State.status_lval (s : State) : s.status.extractLsb' 8 7 = s.lval := by
  simp (disch := decide) only [State.status, BitVec.extractLsb'_append_eq_of_le, Nat.reduceSub,
    BitVec.extractLsb'_append_eq_right]

/-- R67: bits 31:19 are zero. -/
theorem State.status_high (s : State) : s.status.extractLsb' 19 13 = 0 := by
  simp (disch := decide) only [State.status, BitVec.extractLsb'_append_eq_of_le, Nat.reduceSub,
    BitVec.extractLsb'_eq_self, BitVec.ofNat_eq_ofNat]

theorem State.status_toNat_lt (s : State) : s.status.toNat < 2 ^ 19 := by
  have hhigh : s.status.toNat >>> 19 % 2 ^ 13 = 0 := congrArg BitVec.toNat s.status_high
  omega

/-- R67: bits 7 and 15 to 18. -/
theorem State.status_flags (s : State) :
    s.status.getLsbD 7 = s.lv ∧ s.status.getLsbD 15 = false ∧ s.status.getLsbD 16 = s.errIll ∧
      s.status.getLsbD 17 = s.errOpnd ∧ s.status.getLsbD 18 = s.errMode := by
  simp only [State.status, BitVec.getLsbD_append]
  simp

/-- R67: a register shown at bits `i` and up of STATUS, read as the quotient and remainder of the word. -/
theorem State.status_div_mod {s : State} {i n : Nat} {field : BitVec n}
    (h : s.status.extractLsb' i n = field) : s.status.toNat / 2 ^ i % 2 ^ n = field.toNat := by
  rw [← h, BitVec.extractLsb'_toNat, Nat.shiftRight_eq_div_pow]

/-- Settles O40: each field is a slice or a bit of the word, and `ACC` is none of them. -/
theorem statusLayout : Obligations.StatusLayout := by
  refine ⟨by decide, fun _ _ => rfl, fun s => ?_⟩
  obtain ⟨hlv, hzero, hill, hopnd, hmode⟩ := s.status_flags
  have hlow : s.status.toNat % 2 ^ 2 = s.mode.bits.toNat := by
    simpa using State.status_div_mod s.status_mode
  exact ⟨hlow.trans s.mode.bits_toNat, State.status_div_mod s.status_bcnt, hlv,
    State.status_div_mod s.status_lval, hzero, hill, hopnd, hmode, s.status_toNat_lt⟩

end Sys2Proof.Machine

/-! The digit pair mapper of 40_datapath.md (R80 to R82, O24 to O26). `split` is injective, and the pairs that combine
to a word are its range: so they are 8192 of the 91 * 91 pairs, and the other 89 overflow. -/

namespace Sys2Proof.Machine

/-- R81: OVERFLOW is a value above 8191. -/
theorem combine_eq_none {lo hi : Nat} : combine lo hi = none ↔ 8191 < 91 * hi + lo := by
  obtain ⟨hle, w, hw, -⟩ | ⟨hover, hnone⟩ := combine_cases lo hi
  · simp [hw, hle]
  · simpa [hnone] using hover

/-- R81: a word is what its two digits combine to exactly when it has their value. -/
theorem combine_eq_some {lo hi : Nat} {w : StreamWord} :
    combine lo hi = some w ↔ w.toNat = 91 * hi + lo := by
  obtain ⟨-, v, hv, hval⟩ | ⟨hover, hnone⟩ := combine_cases lo hi
  · rw [hv, Option.some.injEq, ← hval, BitVec.toNat_inj, eq_comm]
  · have hlt := w.isLt
    simp only [hnone, reduceCtorEq, false_iff]
    omega

/-- R82: `Combine` after `Split`. -/
theorem combine_split (w : StreamWord) : combine (split w).1.val (split w).2.val = some w :=
  combine_eq_some.mpr (Nat.div_add_mod w.toNat 91).symm

/-- R82: `Split` after `Combine`: a value below 91 is the remainder of the word, and the other digit its quotient. -/
theorem split_of_combine {lo hi : Digit} {w : StreamWord} (h : combine lo.val hi.val = some w) :
    split w = (lo, hi) := by
  have hval : w.toNat = 91 * hi.val + lo.val := combine_eq_some.mp h
  have hlow : w.toNat % 91 = lo.val := by omega
  have hhigh : w.toNat / 91 = hi.val := by omega
  exact Prod.ext (Fin.ext hlow) (Fin.ext hhigh)

theorem split_eq_iff {w : StreamWord} {p : Digit × Digit} :
    split w = p ↔ combine p.1.val p.2.val = some w :=
  ⟨fun h => h ▸ combine_split w, split_of_combine⟩

theorem split_injective : Function.Injective split := fun _ w h =>
  Option.some.inj ((split_eq_iff.mp h).symm.trans (combine_split w))

/-- R82: the valid pairs are those that `Split` gives. -/
theorem range_split : Set.range split = {p : Digit × Digit | combine p.1.val p.2.val ≠ none} := by
  ext p
  exact (exists_congr fun _ => split_eq_iff).trans Option.ne_none_iff_exists'.symm

theorem ncard_range_split : (Set.range split).ncard = 8192 := by
  rw [Set.ncard_range_of_injective split_injective, Nat.card_congr BitVec.equivFin.toEquiv, Nat.card_fin]
  rfl

/-- R81: the pairs that overflow are the rest of the 91 * 91 pairs. -/
theorem ncard_combine_eq_none : {p : Digit × Digit | combine p.1.val p.2.val = none}.ncard = 89 := by
  have hrest : {p : Digit × Digit | combine p.1.val p.2.val = none} = (Set.range split)ᶜ := by
    ext p
    simp [range_split]
  rw [hrest, Set.ncard_compl, ncard_range_split, Nat.card_prod, Nat.card_fin]

/-- Settles O24: both digits are so by definition, and a quotient of 90 leaves only 90 * 91 and the word after it. -/
theorem splitIsRemainderAndQuotient : Obligations.SplitIsRemainderAndQuotient := by
  refine fun w => ⟨rfl, rfl, ?_⟩
  have hlt := w.isLt
  change w.toNat / 91 = 90 ↔ _
  omega

/-- Settles O26: the count is that of the words, since `split` is injective and onto the valid pairs. -/
theorem splitAndCombineInvert : Obligations.SplitAndCombineInvert :=
  ⟨combine_split, fun _ _ _ => split_of_combine, range_split ▸ ncard_range_split⟩

/-- Settles O25: two digits below 91 pass 8191 only from 90 * 91 + 2 on. -/
theorem combineOverflowsOnHighNinety : Obligations.CombineOverflowsOnHighNinety := by
  refine ⟨fun _ _ _ => combine_eq_some.mp, fun lo hi => ?_, ncard_combine_eq_none⟩
  rw [combine_eq_none]
  omega

end Sys2Proof.Machine

/-! The session-control commands of 41_control.md (R91 to R93, O7 to O9). They take no operand, so one word of their
opcode is the command and the others are reserved; they are accepted in every mode and emit nothing, so they
answer the zero word. -/

namespace Sys2Proof

/-! ## Commands without an operand -/

/-- R61: opcodes 0x9 to 0xF belong to no command. -/
theorem Instr.opcode_toNat_lt (i : Instr) : i.opcode.toNat < 9 := by
  cases i <;> simp [Instr.opcode]

/-- R60: the bits below the opcode are `RSV` and `ARG`. -/
theorem toNat_mod_eq_fields (w : PortWord) :
    w.toNat % 2 ^ 28 = (argField w).toNat + 2 ^ 21 * (rsvField w).toNat := by
  rw [argField_toNat, rsvField_toNat]
  omega

/-- R62, R64 (c): a word of a command without an operand is reserved unless its bits 27:0 are zero. -/
theorem decode_eq_reservedOperand_of_bare {w : PortWord} {i : Instr}
    (hbare : decodeOperand i.opcode.toNat = decodeBare i)
    (hop : w.toNat / 2 ^ 28 = i.opcode.toNat) (hlow : w.toNat % 2 ^ 28 ≠ 0) :
    decode w = .error .reservedOperand := by
  have hlegal : ¬ 9 ≤ i.opcode.toNat := not_le.mpr i.opcode_toNat_lt
  rw [decode, opField_toNat, hop, if_neg hlegal, hbare, decodeBare]
  by_cases hrsv : rsvField w = 0
  · have harg : argField w ≠ 0 := fun harg => hlow (by rw [toNat_mod_eq_fields, hrsv, harg]; rfl)
    rw [if_neg (not_not.mpr hrsv), if_neg harg]
  · rw [if_pos hrsv]

end Sys2Proof

namespace Sys2Proof.Machine

open Sys2Proof.Claims

/-! ## The words of the statements -/

/-- R62: the encoding of a well-formed command is its word. -/
theorem wordOf_encode {i : Instr} (h : i.WellFormed) : WordOf (encode i) i :=
  ⟨rfl, decode_encode h⟩

/-- R134: the response to a rejection has `REJ` in bit 18 and `ECODE` in bits 20:19. -/
theorem respWord_reject (c : Cause) :
    respWord [] true c.code = BitVec.ofNat 32 (0x40000 + c.code.toNat * 0x80000) := by
  cases c <;> rfl

/-- R131, R134: the model's rejection is the one the statements write out. -/
theorem reject_eq_rejected (c : Cause) (s : State) : reject c s = rejected c.code.toNat s := by
  rw [reject, rejected, ← respWord_reject]
  cases c <;> simp [State.raiseFlag, State.respond, Cause.code]

/-- R131, R132: a word with an operand error is rejected wherever the host issues it. -/
theorem reservedWord_of_decode {w : PortWord} (h : decode w = .error .reservedOperand) :
    ReservedWord w := fun s rest hl hhost => by
  have hl' : (s.withHost rest).Legal := hl
  rw [step_of_error hhost h, rejectWord, whenLegal_of_legal hl', reject_eq_rejected]
  rfl

/-- R62, R64 (c): the reserved words of a command without an operand. -/
theorem reservedWord_of_bare {i : Instr} (hbare : decodeOperand i.opcode.toNat = decodeBare i)
    (w : PortWord) (hop : w.toNat / 2 ^ 28 = i.opcode.toNat) (hlow : w.toNat % 2 ^ 28 ≠ 0) :
    ReservedWord w :=
  reservedWord_of_decode (decode_eq_reservedOperand_of_bare hbare hop hlow)

/-- R66, R68: an accepted command that emits nothing answers the zero word. -/
theorem exec_of_no_items {i : Instr} {s : State} (hl : s.Legal) (hwf : i.WellFormed)
    (hm : modeOK s.mode i = true) (hout : (effectOf i s).out = []) :
    exec i s = .next (answered 0 (effectOf i s).state) := by
  rw [exec_of_accepted hl hwf hm, complete, hout]
  rfl

/-! ## NOP, START_ENC and START_DEC -/

/-- R91, R92: a start command writes the registers of a session and nothing else. -/
theorem startEffect_state (m : Mode) (s : State) :
    (startEffect m s).state = { s with mode := m, acc := 0, bcnt := 0, lv := false, lval := 0 } :=
  rfl

/-- Settles O7: NOP is accepted in every mode, and its effect is the state it finds. -/
theorem nopFollowsRule : Obligations.NopFollowsRule :=
  ⟨wordOf_encode (i := .nop) rfl, reservedWord_of_bare (i := .nop) rfl,
    fun _ hl => exec_of_no_items hl rfl rfl rfl⟩

/-- Settles O8: START_ENC is accepted in every mode, also within a session, which it aborts. -/
theorem startEncFollowsRule : Obligations.StartEncFollowsRule := by
  refine ⟨wordOf_encode (i := .startEnc) rfl, reservedWord_of_bare (i := .startEnc) rfl,
    fun s hl => ?_⟩
  rw [← startEffect_state]
  exact exec_of_no_items hl rfl rfl rfl

/-- Settles O9: START_DEC is accepted in every mode, and it drops a pending digit with the rest. -/
theorem startDecFollowsRule : Obligations.StartDecFollowsRule := by
  refine ⟨wordOf_encode (i := .startDec) rfl, reservedWord_of_bare (i := .startDec) rfl,
    fun s hl => ?_⟩
  rw [← startEffect_state]
  exact exec_of_no_items hl rfl rfl rfl

end Sys2Proof.Machine

/-! The source's encoder beside the block's (R104, O46). The two agree round by round: the block's pending bits
are the source's `C` and `B`, as long as the 21-bit accumulator holds what the unbounded one does (R30). -/

namespace Sys2Proof.Machine

/-! ## The loop of R100 -/

/-- R161: once the rounds suffice, more of them change nothing. -/
theorem drainWords_add_rounds {a : Accum} {rounds : Nat} (h : a.count < 13 * (rounds + 1)) (more : Nat) :
    drainWords (rounds + more) a = drainWords rounds a := by
  induction rounds generalizing a with
  | zero => exact drainWords_stops (by omega) _
  | succ rounds ih =>
    by_cases hc : 13 ≤ a.count
    · have hrest := ih (a := a.drop 13) (by rw [Accum.drop_count]; omega)
      rw [Nat.succ_add, drainWords_round hc, drainWords_round hc, hrest]
    · rw [drainWords_stops (not_le.mp hc), drainWords_stops (not_le.mp hc)]

/-- R100: the source's loop and the block's take out the same words and leave the same bits. -/
theorem sourceWords_eq_drainWords (rounds : Nat) (a : Accum) :
    sourceWords rounds a.acc.toNat a.count =
      ((drainWords rounds a).1.map BitVec.toNat, (drainWords rounds a).2.acc.toNat,
        (drainWords rounds a).2.count) := by
  induction rounds generalizing a with
  | zero => rfl
  | succ rounds ih =>
    by_cases hc : 13 ≤ a.count
    · have hdrop : a.acc.toNat >>> 13 = (a.drop 13).acc.toNat := by
        rw [Accum.drop_toNat, Nat.shiftRight_eq_div_pow]
      rw [sourceWords, if_pos hc, hdrop, ← Accum.drop_count, ih, drainWords_round hc, List.map_cons,
        Accum.low_toNat]
      rfl
    · rw [sourceWords, if_neg hc, drainWords_stops (not_le.mp hc)]
      rfl

/-- R83, R100: the source's "OR into `C` at offset `B`" is the block's append. -/
theorem Accum.ins_byteBits_toNat (n : Byte) {a : Accum} (ha : a.acc.toNat < 2 ^ a.count)
    (hk : a.count + 8 ≤ 21) :
    (a.ins (byteBits n) 8).acc.toNat = a.acc.toNat ||| n.toNat <<< a.count := by
  rw [Accum.ins_toNat (byteBits_lt n) ha hk, byteBits_toNat, Nat.or_comm,
    ← Nat.shiftLeft_add_eq_or_of_lt ha, Nat.shiftLeft_eq, Nat.add_comm]

/-- R100: one byte in the source's encoder, from the block's pending bits. -/
theorem sourceWords_encByte (n : Byte) {s : State} (hl : s.Legal) (hm : s.mode = .enc) :
    sourceWords (s.accum.count + 8) (s.accum.acc.toNat ||| n.toNat <<< s.accum.count)
        (s.accum.count + 8) =
      ((drainWords 3 (s.accum.ins (byteBits n) 8)).1.map BitVec.toNat,
        (encByteEffect Config.alpha n s).state.accum.acc.toNat,
        (encByteEffect Config.alpha n s).state.accum.count) := by
  have hb : s.accum.count ≤ 12 := hl.bcnt_le_of_enc hm
  have hcount : (s.accum.ins (byteBits n) 8).count = s.accum.count + 8 := Accum.ins_count _ _ _
  have hdrained := drainWords_length 3 (s.accum.ins (byteBits n) 8)
  have hrounds : drainWords (s.accum.count + 8) (s.accum.ins (byteBits n) 8) =
      drainWords 3 (s.accum.ins (byteBits n) 8) := by
    rw [show s.accum.count + 8 = 3 + (s.accum.count + 5) by omega]
    exact drainWords_add_rounds (by omega) _
  have hstate : (encByteEffect Config.alpha n s).state.accum =
      (drainWords 3 (s.accum.ins (byteBits n) 8)).2 := State.setAccum_accum s (by omega)
  rw [← Accum.ins_byteBits_toNat n hl.accFits (by omega), hstate, ← hrounds, ← hcount,
    sourceWords_eq_drainWords]

/-! ## The symbols -/

/-- R51, R100: the source's two symbols of a word are the block's. -/
theorem wordSymbols_eq_sourceSymbols (A : Alphabet) (w : StreamWord) :
    wordSymbols A w =
      [sourceSymbol A (w.toNat % 91), sourceSymbol A (w.toNat / 91)].map fun c => c.setWidth 8 := by
  have hlow : Fin.ofNat 91 (w.toNat % 91) = (split w).1 := Fin.ext (Nat.mod_mod _ _)
  have hhigh : Fin.ofNat 91 (w.toNat / 91) = (split w).2 := Fin.ext (Nat.mod_eq_of_lt (split w).2.isLt)
  simp only [wordSymbols, codeItem, alphaRead_eq_code, sourceSymbol, hlow, hhigh, List.map_cons,
    List.map_nil]

/-- R100: the source's symbols of a list of words are the block's. -/
theorem flatMap_wordSymbols (A : Alphabet) (ws : List StreamWord) :
    ws.flatMap (wordSymbols A) =
      ((ws.map BitVec.toNat).flatMap fun v =>
        [sourceSymbol A (v % 91), sourceSymbol A (v / 91)]).map fun c => c.setWidth 8 := by
  rw [List.flatMap_map, List.map_flatMap]
  exact congrArg (List.flatMap · ws) (funext (wordSymbols_eq_sourceSymbols A))

/-- R102: the source's flush of the pending bits is the block's. -/
theorem flushSymbols_eq_sourceFlush (A : Alphabet) (s : State) :
    flushSymbols A s =
      (sourceFlush A s.accum.acc.toNat s.accum.count).map fun c => c.setWidth 8 := by
  have hlow : (s.accum.low 13).toNat = s.accum.acc.toNat % 8192 := Accum.low_toNat _ _
  rw [flushSymbols, sourceFlush, ← hlow, wordSymbols_eq_sourceSymbols, State.accum_count]
  split
  · rfl
  · split <;> rfl

/-! ## Sessions -/

/-- R104: what an encode session still has to emit is what the source's encoder emits from the same bits. -/
theorem encodeRest_eq_sourceEncodeFrom (data : List Byte) {s : State} (hl : s.Legal)
    (hm : s.mode = .enc) :
    encodeRest s data =
      (sourceEncodeFrom Config.alpha data s.accum.acc.toNat s.accum.count).map
        fun c => c.setWidth 8 := by
  induction data generalizing s with
  | nil => rw [← flushSymbols_eq_encodeRest hl hm, flushSymbols_eq_sourceFlush, sourceEncodeFrom]
  | cons n data ih =>
    have hlegal := encByteEffect_legal Config.alpha n hl hm
    rw [← encByteEffect_stream n data hl hm, ih hlegal hm, sourceEncodeFrom,
      sourceWords_encByte n hl hm, List.map_append, ← flatMap_wordSymbols]
    rfl

/-- Settles O46: the sessions' stream (O48's induction) is the source's, from no pending bits on. -/
theorem encodeSessionIsSourceEncode : Obligations.EncodeSessionIsSourceEncode := by
  intro s data hl
  have hopened := complete_legal (startEffect_legal .enc (s.withHost []))
  rw [encodeSession, programOutput_cons_of_not_session hl rfl rfl rfl]
  exact (programOutput_encBytes data hopened rfl).trans
    (congrArg some (encodeRest_eq_sourceEncodeFrom data hopened rfl))

end Sys2Proof.Machine

/-! The encoder commands of 42_encoder.md (R100 to R103, O10 and O11): their words, the number a response word stands
for, and what each command leaves in each range of `BCNT`. -/

namespace Sys2Proof

/-! ## Words as numbers -/

/-- R60: the upper part of a word counts in units of the lower part's range. -/
theorem append_toNat {m n : Nat} (x : BitVec m) (y : BitVec n) :
    (x ++ y).toNat = x.toNat * 2 ^ n + y.toNat := by
  rw [BitVec.toNat_append, ← Nat.shiftLeft_add_eq_or_of_lt y.isLt, Nat.shiftLeft_eq]

/-- R60, R62: the word of a command as a number. -/
theorem encode_toNat (i : Instr) :
    (encode i).toNat = i.opcode.toNat * 2 ^ 28 + i.argument.toNat := by
  simp only [encode, append_toNat, BitVec.toNat_ofNat]
  omega

/-- R62: the operand check decides on a word whose reserved bits are zero; with one set, the word is refused
before. -/
theorem decode_eq_reservedOperand {w : PortWord} {i : Instr} (hop : w.toNat / 2 ^ 28 = i.opcode.toNat)
    (harg : rsvField w = 0 → decodeOperand i.opcode.toNat (argField w) = .error .reservedOperand) :
    decode w = .error .reservedOperand := by
  rw [decode, opField_toNat, hop, if_neg (not_le.mpr i.opcode_toNat_lt)]
  by_cases hrsv : rsvField w = 0
  · rw [if_neg (not_not.mpr hrsv), harg hrsv]
  · rw [if_pos hrsv]

/-- R62, R64 (c): ENC_BYTE's bits 27:8 must be zero. -/
theorem decode_eq_reservedOperand_of_encByte {w : PortWord} (hop : w.toNat / 2 ^ 28 = 0x3)
    (hhigh : w.toNat % 2 ^ 28 / 2 ^ 8 ≠ 0) : decode w = .error .reservedOperand := by
  refine decode_eq_reservedOperand (i := .encByte 0) hop fun hrsv => ?_
  have harg : (argField w).extractLsb' 8 13 ≠ 0 := fun h => by
    have hzero : (argField w).toNat >>> 8 % 2 ^ 13 = 0 := congrArg BitVec.toNat h
    have hlt := (argField w).isLt
    have hrsv0 : (rsvField w).toNat = 0 := congrArg BitVec.toNat hrsv
    rw [toNat_mod_eq_fields, hrsv0] at hhigh
    omega
  exact if_neg harg

end Sys2Proof

namespace Sys2Proof.Machine

open Sys2Proof.Claims

/-- R62, R63: a command with an operand has the opcode's first word plus the operand as its word. -/
theorem wordOf_ofNat {i : Instr} {base n : Nat} (h : i.WellFormed)
    (hbase : i.opcode.toNat * 2 ^ 28 = base) (hn : i.argument.toNat = n) :
    WordOf (BitVec.ofNat 32 (base + n)) i := by
  rw [← hbase, ← hn, ← encode_toNat, BitVec.ofNat_toNat, BitVec.setWidth_eq]
  exact wordOf_encode h

/-- R66: the response to an accepted command as a number: the item count, then the second and the first item. -/
theorem respWord_accepted {out : List Byte} (h : out.length ≤ 2) :
    respWord out false 0 = BitVec.ofNat 32
      (out.length * 0x10000 + 2 ^ 8 * (out[1]?.getD 0#8).toNat + (out[0]?.getD 0#8).toNat) := by
  have hfirst := (out[0]?.getD 0#8).isLt
  have hsecond := (out[1]?.getD 0#8).isLt
  apply BitVec.eq_of_toNat_eq
  simp only [respWord, append_toNat, BitVec.toNat_ofNat, BitVec.toNat_ofBool, Bool.toNat_false,
    BitVec.ofNat_eq_ofNat]
  omega

/-- R40: an entry of the alphabet has 7 bits. -/
theorem entry_lt (k : Nat) : entry k < 2 ^ 7 := (Config.alpha.code (Fin.ofNat 91 k)).isLt

/-- R66, D26: an output item holds an entry whole. -/
theorem entry_mod_item (k : Nat) : entry k % 256 = entry k :=
  Nat.mod_eq_of_lt ((entry_lt k).trans (by decide))

/-- R66: the response without an item is the zero word. -/
theorem respWord_nil : respWord [] false 0 = BitVec.ofNat 32 0 :=
  respWord_accepted (out := []) (by simp)

/-- R51, R66: the response that carries the two symbols of a word. -/
theorem respWord_pairSymbols (w : Nat) :
    respWord (pairSymbols w) false 0 =
      BitVec.ofNat 32 (0x20000 + 2 ^ 8 * entry (w / 91) + entry (w % 91)) := by
  rw [respWord_accepted (out := pairSymbols w) le_rfl]
  simp [pairSymbols, entry_mod_item]

/-- R66, R103: the response that carries the first symbol of a word alone. -/
theorem respWord_pairSymbols_take_one (w : Nat) :
    respWord ((pairSymbols w).take 1) false 0 = BitVec.ofNat 32 (0x10000 + entry (w % 91)) := by
  rw [respWord_accepted (out := (pairSymbols w).take 1) (by simp)]
  simp [pairSymbols, entry_mod_item]

/-! ## Running a command -/

/-- R132, R133: a well-formed command in a mode it is not legal in is rejected with cause 3. -/
theorem exec_of_mode_mismatch {i : Instr} {s : State} (hl : s.Legal) (hwf : i.WellFormed)
    (hm : modeOK s.mode i = false) : exec i s = .next (rejected 3 s) := by
  have hcheck : check i s = some .modeMismatch := by simp [check, hwf, hm]
  rw [exec_eq_perform, perform_of_reject _ hl hcheck, reject_eq_rejected]
  rfl

/-- R68: an accepted command leaves its effect, with its response word on the port. -/
theorem exec_of_response {i : Instr} {s : State} {e : Effect} {r : Nat} (hl : s.Legal)
    (hwf : i.WellFormed) (hm : modeOK s.mode i = true) (he : effectOf i s = e)
    (hr : respWord e.out false 0 = BitVec.ofNat 32 r) : exec i s = .next (answered r e.state) := by
  rw [exec_of_accepted hl hwf hm, he, complete, hr]
  rfl

/-- R22, R23: writing `ACC` and `BCNT` in the numbers of the statements. -/
theorem State.setAccum_eq {a : Accum} {v b : Nat} (s : State) (hv : a.acc.toNat = v) (hb : a.count = b) :
    s.setAccum a = { s with acc := BitVec.ofNat 21 v, bcnt := BitVec.ofNat 5 b } := by
  rw [State.setAccum, ← hv, hb, BitVec.ofNat_toNat, BitVec.setWidth_eq]

/-! ## ENC_BYTE -/

/-- R30, R100: the byte is added above the pending bits. -/
theorem ins_byteBits_of_enc (n : Byte) {s : State} (hl : s.Legal) (hm : s.mode = .enc) :
    (s.accum.ins (byteBits n) 8).acc.toNat = s.acc.toNat + n.toNat * 2 ^ s.bcnt.toNat ∧
      (s.accum.ins (byteBits n) 8).count = s.bcnt.toNat + 8 := by
  obtain ⟨-, -, hval⟩ := (commandBitsStayWithinTwenty s hl).1 hm n
  exact ⟨hval, Accum.ins_count _ _ _⟩

/-- R100 (i): with at most 4 pending bits the byte completes no word. -/
theorem encByteEffect_of_le_four (n : Byte) {s : State} (hl : s.Legal) (hm : s.mode = .enc)
    (hb : s.bcnt.toNat ≤ 4) :
    encByteEffect Config.alpha n s =
      ⟨{ s with
          acc := BitVec.ofNat 21 (s.acc.toNat + n.toNat * 2 ^ s.bcnt.toNat)
          bcnt := BitVec.ofNat 5 (s.bcnt.toNat + 8) }, []⟩ := by
  obtain ⟨hval, hcount⟩ := ins_byteBits_of_enc n hl hm
  rw [encByteEffect, drainWords_stops (by omega), ← State.setAccum_eq s hval hcount]
  rfl

/-- R100 (ii): with 5 to 12 pending bits the byte completes exactly one word. -/
theorem encByteEffect_of_five_le (n : Byte) {s : State} (hl : s.Legal) (hm : s.mode = .enc)
    (hb : 5 ≤ s.bcnt.toNat) :
    encByteEffect Config.alpha n s =
      ⟨{ s with
          acc := BitVec.ofNat 21 ((s.acc.toNat + n.toNat * 2 ^ s.bcnt.toNat) / 2 ^ 13)
          bcnt := BitVec.ofNat 5 (s.bcnt.toNat - 5) },
        pairSymbols ((s.acc.toNat + n.toNat * 2 ^ s.bcnt.toNat) % 2 ^ 13)⟩ := by
  obtain ⟨hval, hcount⟩ := ins_byteBits_of_enc n hl hm
  have hle := hl.bcnt_le_of_enc hm
  have hdrop := Accum.drop_count (s.accum.ins (byteBits n) 8) 13
  rw [encByteEffect, drainWords_round (by omega), drainWords_stops (by omega), List.flatMap_singleton,
    wordSymbols_eq_pairSymbols, Accum.low_toNat, ← hval, ← Accum.drop_toNat,
    ← State.setAccum_eq s rfl (hdrop.trans (by omega))]

/-- Settles O10: the append is exact (R30), and whether it reaches 13 bits is whether `BCNT` was 5 or more. -/
theorem encByteFollowsRule : Obligations.EncByteFollowsRule := by
  refine ⟨fun n => wordOf_ofNat rfl (by simp [Instr.opcode]) (byteBits_toNat n), fun w hop hhigh =>
    reservedWord_of_decode (decode_eq_reservedOperand_of_encByte hop hhigh), fun n s hl =>
    ⟨fun hm => ?_, fun hm hb => ?_, fun hm hb => ?_⟩⟩
  · exact exec_of_mode_mismatch hl rfl (decide_eq_false hm)
  · exact exec_of_response (i := .encByte n) hl rfl (decide_eq_true hm)
      (encByteEffect_of_le_four n hl hm hb) respWord_nil
  · exact exec_of_response (i := .encByte n) hl rfl (decide_eq_true hm)
      (encByteEffect_of_five_le n hl hm hb) (respWord_pairSymbols _)

/-! ## ENC_END -/

/-- R102, R103: ENC_END flushes the pending bits. -/
theorem flushSymbols_eq_leftoverSymbols {s : State} (hl : s.Legal) (hm : s.mode = .enc) :
    flushSymbols Config.alpha s = leftoverSymbols s.acc.toNat s.bcnt.toNat := by
  have hb := hl.bcnt_le_of_enc hm
  rw [flushSymbols_eq_encodeRest hl hm]
  simpa [encodeRest, byteStream] using bitSymbols_of_lt (by omega) s.acc.toNat

theorem encEndEffect_eq {s : State} (hl : s.Legal) (hm : s.mode = .enc) :
    encEndEffect Config.alpha s = ⟨{ s with mode := .idle, acc := 0, bcnt := 0 },
      leftoverSymbols s.acc.toNat s.bcnt.toNat⟩ := by
  rw [encEndEffect, flushSymbols_eq_leftoverSymbols hl hm]
  rfl

theorem leftoverSymbols_zero (w : Nat) : leftoverSymbols w 0 = [] := rfl

theorem leftoverSymbols_of_le_six {r : Nat} (h : 1 ≤ r) (h6 : r ≤ 6) (w : Nat) :
    leftoverSymbols w r = (pairSymbols w).take 1 := by
  rw [leftoverSymbols, if_neg (by omega), if_pos h6]

theorem leftoverSymbols_of_seven_le {r : Nat} (h : 7 ≤ r) (w : Nat) :
    leftoverSymbols w r = pairSymbols w := by
  rw [leftoverSymbols, if_neg (by omega), if_neg (by omega)]

/-- Settles O11: the effect is one in all three ranges of `BCNT`; they differ in the flush alone. -/
theorem encEndFollowsRule : Obligations.EncEndFollowsRule := by
  refine ⟨wordOf_encode (i := .encEnd) rfl, reservedWord_of_bare (i := .encEnd) rfl, fun s hl =>
    ⟨fun hm => exec_of_mode_mismatch hl rfl (decide_eq_false hm), fun hm hb => ?_, fun hm h1 h6 => ?_,
      fun hm h7 => ?_⟩⟩
  all_goals
    refine exec_of_response (i := .encEnd) hl rfl (decide_eq_true hm) (encEndEffect_eq hl hm) ?_
  · rw [hb, leftoverSymbols_zero]
    exact respWord_nil
  · rw [leftoverSymbols_of_le_six h1 h6]
    exact respWord_pairSymbols_take_one _
  · rw [leftoverSymbols_of_seven_le h7]
    exact respWord_pairSymbols _

end Sys2Proof.Machine

/-! Counting over an encode session (R101 and R105, O45 and O47): before and after each byte, 13 bits a pair and the
pending ones add up to 8 bits a byte. -/

namespace Sys2Proof.Machine

open Sys2Proof.Claims

/-! ## When a pair is emitted -/

/-- R100: 13 bits of the pending ones and the byte go out as two symbols, the rest is pending. -/
theorem encByteEffect_counts (n : Byte) {s : State} (hl : s.Legal) (hm : s.mode = .enc) :
    (encByteEffect Config.alpha n s).out.length = 2 * ((s.bcnt.toNat + 8) / 13) ∧
      (encByteEffect Config.alpha n s).state.bcnt.toNat = (s.bcnt.toNat + 8) % 13 := by
  have hb := hl.bcnt_le_of_enc hm
  rcases Nat.lt_or_ge s.bcnt.toNat 5 with hlt | hge
  · rw [encByteEffect_of_le_four n hl hm (by omega)]
    simp only [List.length_nil, BitVec.toNat_ofNat]
    omega
  · rw [encByteEffect_of_five_le n hl hm hge]
    simp only [pairSymbols, List.length_cons, List.length_nil, BitVec.toNat_ofNat]
    omega

/-- R101: how many symbols each of `n` bytes emits, from `b` pending bits on. -/
def pairCounts (b n : Nat) : List Nat :=
  (List.range n).map fun k => 2 * ((b + 8 * (k + 1)) / 13 - (b + 8 * k) / 13)

/-- R101: the first byte's symbols, then those of the bytes after it. -/
theorem pairCounts_succ {b : Nat} (hb : b < 13) (n : Nat) :
    pairCounts b (n + 1) = 2 * ((b + 8) / 13) :: pairCounts ((b + 8) % 13) n := by
  rw [pairCounts, List.range_succ_eq_map, List.map_cons, List.map_map]
  congr 1
  · omega
  · refine List.map_congr_left fun k _ => ?_
    simp only [Function.comp_apply]
    omega

/-- R159: an accepted command's response, then the responses of the rest. -/
theorem runWords_cons_of_accepted {i : Instr} {s t : State} {ws rs : List PortWord} (hl : s.Legal)
    (hwf : i.WellFormed) (hm : modeOK s.mode i = true)
    (hrest : runWords ws (complete (effectOf i (s.withHost []))) = some (rs, t)) :
    runWords (encode i :: ws) s =
      some (respWord (effectOf i (s.withHost [])).out false 0 :: rs, t) := by
  have hissue := (issue_encode hwf s).trans (exec_of_accepted (s := s.withHost []) hl hwf hm)
  simp only [runWords, hissue, hrest, Option.map_some, State.respPort, complete_respQ]

/-- R101: the responses to the bytes of an encode session, and the bits pending after them. -/
theorem runWords_encBytes (data : List Byte) {s : State} (hl : s.Legal) (hm : s.mode = .enc) :
    ∃ rs t, runWords ((encBytes data).map encode) s = some (rs, t) ∧
      t.bcnt.toNat = (s.bcnt.toNat + 8 * data.length) % 13 ∧
      rs.map respCount = pairCounts s.bcnt.toNat data.length := by
  have hb : s.bcnt.toNat ≤ 12 := hl.bcnt_le_of_enc hm
  induction data generalizing s with
  | nil => exact ⟨[], s, rfl, (Nat.mod_eq_of_lt (by omega)).symm, rfl⟩
  | cons n data ih =>
    obtain ⟨hout, hbcnt⟩ := encByteEffect_counts n (s := s.withHost []) hl hm
    have hlegal := complete_legal (encByteEffect_legal Config.alpha n (s := s.withHost []) hl hm)
    obtain ⟨rs, t, hrun, ht, hcounts⟩ := ih hlegal hm (hlegal.bcnt_le_of_enc hm)
    have hafter : (complete (encByteEffect Config.alpha n (s.withHost []))).bcnt.toNat =
        (s.bcnt.toNat + 8) % 13 := hbcnt
    rw [hafter] at ht hcounts
    refine ⟨_, t, runWords_cons_of_accepted (i := .encByte n) hl rfl (decide_eq_true hm) hrun, ?_, ?_⟩
    · rw [ht, List.length_cons]
      omega
    · have hfirst := (respCount_respWord (encByteEffect_out_length_le Config.alpha n
        (s := s.withHost []) hl hm) false 0).trans hout
      rw [List.map_cons, hcounts, List.length_cons, pairCounts_succ (by omega)]
      exact congrArg (· :: _) hfirst

/-- R101: 8 of any 13 consecutive bytes complete a word. -/
theorem pair_at_iff (k : Nat) (hk : 1 ≤ k) :
    8 * (k - 1) / 13 < 8 * k / 13 ↔ k % 13 ∈ [2, 4, 5, 7, 9, 10, 12, 0] := by
  simp only [List.mem_cons, List.not_mem_nil, or_false]
  omega

/-- Settles O45: START_ENC leaves nothing pending, so before the `k`-th byte 8 (k - 1) bits have come in. -/
theorem encodePairTiming : Obligations.EncodePairTiming := by
  intro s data hl
  have hopened := complete_legal (startEffect_legal .enc (s.withHost []))
  obtain ⟨rs, t, hrun, ht, hcounts⟩ := runWords_encBytes data hopened rfl
  have hempty : (complete (startEffect .enc (s.withHost []))).bcnt.toNat = 0 := rfl
  rw [hempty, Nat.zero_add] at ht
  rw [hempty] at hcounts
  have hlength : rs.length = data.length := by
    simpa [pairCounts] using congrArg List.length hcounts
  refine ⟨_, t, runWords_cons_of_accepted (i := .startEnc) hl rfl rfl hrun, ht,
    congrArg (· + 1) hlength, fun k hk hle => ⟨?_, pair_at_iff k hk⟩⟩
  obtain ⟨j, rfl⟩ := Nat.exists_eq_add_of_le' hk
  have hj : rs[j]?.map respCount = some (2 * (8 * (j + 1) / 13 - 8 * j / 13)) := by
    rw [← List.getElem?_map, hcounts, pairCounts, List.getElem?_map, List.getElem?_range (by omega)]
    simp
  rw [List.getElem?_cons_succ, hj, Nat.add_sub_cancel]
  congr 1
  split <;> omega

/-! ## How many symbols a session emits -/

theorem leftoverSymbols_length (w r : Nat) : (leftoverSymbols w r).length = flushLength r := by
  unfold leftoverSymbols flushLength
  split
  · rfl
  · split <;> rfl

/-- R105: two symbols for each full word, then the flush. -/
theorem bitSymbols_length (v n : Nat) :
    (bitSymbols v n).length = 2 * (n / 13) + flushLength (n % 13) := by
  simp [bitSymbols, pairSymbols, leftoverSymbols_length, List.length_flatten, Function.comp_def,
    Nat.mul_comm]

/-- R105: the bounds on the length for a stream of whole bytes. -/
theorem encodedLength_bounds (n : Nat) :
    16 * n ≤ 13 * (2 * (8 * n / 13) + flushLength (8 * n % 13)) ∧
      2 * (8 * n / 13) + flushLength (8 * n % 13) ≤ 2 * n := by
  unfold flushLength
  split
  · omega
  · split <;> omega

/-- Settles O47: the session emits the symbols of its stream (O48), whose number is that of its words. -/
theorem encodeOutputLength : Obligations.EncodeOutputLength := by
  intro s data hl
  have hlength : (streamSymbols (byteStream data) data.length).length =
      2 * (8 * data.length / 13) + flushLength (8 * data.length % 13) := by
    rw [streamSymbols_eq_bitSymbols, bitSymbols_length]
  refine ⟨_, encodeStreamIsLittleEndian s data hl, hlength, ?_⟩
  rw [hlength]
  exact encodedLength_bounds data.length

end Sys2Proof.Machine

/-! The decoder commands of 43_decoder.md (R110, R111 and R113, O12, O13 and O30): the words of DEC_SYM, the response
that carries whole bytes, and what each command leaves in each range of `BCNT`. -/

namespace Sys2Proof

/-- R62, R64 (c): every `ARG` is a code point, so a word of DEC_SYM is reserved only by its bits 27:21. -/
theorem decode_eq_reservedOperand_of_decSym {w : PortWord} (hop : w.toNat / 2 ^ 28 = 0x5)
    (hhigh : w.toNat % 2 ^ 28 / 2 ^ 21 ≠ 0) : decode w = .error .reservedOperand := by
  refine decode_eq_reservedOperand (i := .decSym 0) hop fun hrsv => absurd ?_ hhigh
  have hlt := (argField w).isLt
  have hrsv0 : (rsvField w).toNat = 0 := congrArg BitVec.toNat hrsv
  rw [toNat_mod_eq_fields]
  omega

end Sys2Proof

namespace Sys2Proof.Machine

open Sys2Proof.Claims

/-! ## Responses that carry bytes -/

/-- R66: the response that carries the low byte of `v`. -/
theorem respWord_byte (v : Nat) :
    respWord [BitVec.ofNat 8 v] false 0 = BitVec.ofNat 32 (0x10000 + v % 2 ^ 8) := by
  rw [respWord_accepted (by simp)]
  simp

/-- R66: the response that carries the two low bytes of `v`, the lower one first. -/
theorem respWord_two_bytes (v : Nat) :
    respWord [BitVec.ofNat 8 v, BitVec.ofNat 8 (v / 2 ^ 8)] false 0 =
      BitVec.ofNat 32 (0x20000 + v % 2 ^ 16) := by
  rw [respWord_accepted le_rfl]
  congr 1
  simp only [List.length_cons, List.length_nil, List.getElem?_cons_zero, List.getElem?_cons_succ,
    Option.getD_some, BitVec.toNat_ofNat]
  omega

/-- R84: the bits taken out are the low ones of the accumulator's number. -/
theorem Accum.low_eq_ofNat (a : Accum) (k : Nat) : a.low k = BitVec.ofNat k a.acc.toNat := by
  rw [← BitVec.toNat_inj, Accum.low_toNat, BitVec.toNat_ofNat]

/-! ## The drain loop -/

/-- R110: from 8 to 15 bits one byte is taken out. -/
theorem drainBytes_once {a : Accum} (h8 : 8 ≤ a.count) (h16 : a.count < 16) (rounds : Nat) :
    drainBytes (rounds + 1) a = ([BitVec.ofNat 8 a.acc.toNat], a.drop 8) := by
  have hdrop := Accum.drop_count a 8
  rw [drainBytes_round h8, drainBytes_stops (by omega), Accum.low_eq_ofNat]

/-- R110: from 16 to 23 bits two bytes are taken out. -/
theorem drainBytes_twice {a : Accum} (h16 : 16 ≤ a.count) (h24 : a.count < 24) (rounds : Nat) :
    drainBytes (rounds + 2) a =
      ([BitVec.ofNat 8 a.acc.toNat, BitVec.ofNat 8 (a.acc.toNat / 2 ^ 8)], (a.drop 8).drop 8) := by
  have hdrop := Accum.drop_count a 8
  rw [drainBytes_round (by omega), drainBytes_once (by omega) (by omega), Accum.low_eq_ofNat,
    Accum.drop_toNat]

/-- Settles O30: between commands of a decode session `BCNT` is below 8. -/
theorem drainAfterDiscardIsIdle : Obligations.DrainAfterDiscardIsIdle :=
  fun _ rounds hl hm => drainBytes_stops (Nat.lt_succ_of_le (hl.bcnt_le_of_dec hm)) rounds

/-! ## DEC_SYM -/

/-- R45, R48: `SymDigit` answers none for what is no entry of `ALPHA`. -/
theorem symDigit_eq_none_of_noSymbol {cp : CodePoint} (h : NoSymbol cp) :
    symDigit Config.alpha cp = none :=
  Option.eq_none_iff_forall_ne_some.mpr fun d hd => h d (symDigit_eq_some.mp hd)

/-- R110: for the symbol of `d` the effect is the digit's. -/
theorem decSymEffect_of_symbol {cp : CodePoint} {d : Digit} (h : SymbolOf cp d) (s : State) :
    decSymEffect Config.alpha cp s = decDigitEffect d s := by
  rw [decSymEffect, symDigit_eq_some.mpr h]

/-- R110 (i): a code point that is no symbol has no effect. -/
theorem decSymEffect_of_noSymbol {cp : CodePoint} (h : NoSymbol cp) (s : State) :
    decSymEffect Config.alpha cp s = ⟨s, []⟩ := by
  rw [decSymEffect, symDigit_eq_none_of_noSymbol h]

/-- R110: the first digit of a pair is held. -/
theorem decDigitEffect_of_not_pending (d : Digit) {s : State} (hv : s.lv = false) :
    decDigitEffect d s = ⟨s.setPending d, []⟩ := if_pos hv

/-- R110 (ii): an overflow pair is discarded. -/
theorem decDigitEffect_of_overflow {d : Digit} {s : State} (hv : s.lv = true)
    (hw : 8191 < 91 * d.val + s.lval.toNat) : decDigitEffect d s = ⟨s.clearPending, []⟩ := by
  rw [decDigitEffect, if_neg (by simp [hv]), combine_eq_none.mpr hw]

/-- R110: any other pair appends its word. -/
theorem decDigitEffect_of_kept {d : Digit} {s : State} (hv : s.lv = true)
    (hw : 91 * d.val + s.lval.toNat ≤ 8191) :
    decDigitEffect d s = decWordEffect (BitVec.ofNat 13 (91 * d.val + s.lval.toNat)) s.clearPending := by
  rw [decDigitEffect, if_neg (by simp [hv]), combine, if_pos hw]

/-- R30, R110: the word is added above the pending bits. -/
theorem ins_word_of_dec {w : Nat} (hw : w ≤ 8191) {s : State} (hl : s.Legal) (hm : s.mode = .dec) :
    (s.accum.ins ((BitVec.ofNat 13 w).setWidth 21) 13).acc.toNat = s.acc.toNat + w * 2 ^ s.bcnt.toNat ∧
      (s.accum.ins ((BitVec.ofNat 13 w).setWidth 21) 13).count = s.bcnt.toNat + 13 := by
  obtain ⟨-, hdec, -⟩ := commandBitsStayWithinTwenty s hl
  obtain ⟨-, -, hval⟩ := hdec hm (BitVec.ofNat 13 w)
  rw [hval, BitVec.toNat_ofNat, Nat.mod_eq_of_lt (by omega)]
  exact ⟨rfl, Accum.ins_count _ _ _⟩

/-- R110 (iv): with at most 2 pending bits the word completes one byte. -/
theorem decWordEffect_of_le_two {w : Nat} (hw : w ≤ 8191) {s : State} (hl : s.Legal)
    (hm : s.mode = .dec) (hb : s.bcnt.toNat ≤ 2) :
    decWordEffect (BitVec.ofNat 13 w) s =
      ⟨{ s with
          acc := BitVec.ofNat 21 ((s.acc.toNat + w * 2 ^ s.bcnt.toNat) / 2 ^ 8)
          bcnt := BitVec.ofNat 5 (s.bcnt.toNat + 5) },
        [BitVec.ofNat 8 (s.acc.toNat + w * 2 ^ s.bcnt.toNat)]⟩ := by
  obtain ⟨hval, hcount⟩ := ins_word_of_dec hw hl hm
  rw [decWordEffect, drainBytes_once (by omega) (by omega), hval,
    ← State.setAccum_eq s (by rw [Accum.drop_toNat, hval]) (by rw [Accum.drop_count, hcount]; rfl)]

/-- R110 (iv): with 3 to 7 pending bits the word completes two bytes. -/
theorem decWordEffect_of_three_le {w : Nat} (hw : w ≤ 8191) {s : State} (hl : s.Legal)
    (hm : s.mode = .dec) (hb : 3 ≤ s.bcnt.toNat) :
    decWordEffect (BitVec.ofNat 13 w) s =
      ⟨{ s with
          acc := BitVec.ofNat 21 ((s.acc.toNat + w * 2 ^ s.bcnt.toNat) / 2 ^ 16)
          bcnt := BitVec.ofNat 5 (s.bcnt.toNat - 3) },
        [BitVec.ofNat 8 (s.acc.toNat + w * 2 ^ s.bcnt.toNat),
          BitVec.ofNat 8 ((s.acc.toNat + w * 2 ^ s.bcnt.toNat) / 2 ^ 8)]⟩ := by
  obtain ⟨hval, hcount⟩ := ins_word_of_dec hw hl hm
  have hle := hl.bcnt_le_of_dec hm
  have hrest : ((s.accum.ins ((BitVec.ofNat 13 w).setWidth 21) 13).drop 8 |>.drop 8).acc.toNat =
      (s.acc.toNat + w * 2 ^ s.bcnt.toNat) / 2 ^ 16 := by
    rw [Accum.drop_toNat, Accum.drop_toNat, hval]
    exact Nat.div_div_eq_div_mul _ _ _
  rw [decWordEffect, drainBytes_twice (by omega) (by omega), hval,
    ← State.setAccum_eq s hrest (by rw [Accum.drop_count, Accum.drop_count, hcount]; omega)]

/-- Settles O12: one split at whether a digit is held, one at 8191 for the pair's word, and one at 3 pending bits,
from which the word's 13 make 16. -/
theorem decSymFollowsRule : Obligations.DecSymFollowsRule := by
  refine ⟨fun cp => wordOf_ofNat rfl (by simp [Instr.opcode]) rfl, fun w hop hhigh =>
    reservedWord_of_decode (decode_eq_reservedOperand_of_decSym hop hhigh), fun cp s hl hm =>
    exec_of_mode_mismatch hl rfl (decide_eq_false hm), fun cp s hl hm hno =>
    exec_of_response (i := .decSym cp) hl rfl (decide_eq_true hm) (decSymEffect_of_noSymbol hno s)
      respWord_nil, fun cp d s hl hm hsym => ?_⟩
  have hanswer {e : Effect} {r : Nat} (he : decDigitEffect d s = e)
      (hr : respWord e.out false 0 = BitVec.ofNat 32 r) :
      exec (.decSym cp) s = .next (answered r e.state) :=
    exec_of_response hl rfl (decide_eq_true hm) ((decSymEffect_of_symbol hsym s).trans he) hr
  have hclear := State.clearPending_legal hl hm
  refine ⟨fun hv => ?_, fun hv hw => ?_, fun hv hw hb => ?_, fun hv hw hb => ?_⟩
  · exact hanswer (decDigitEffect_of_not_pending d hv) respWord_nil
  · exact hanswer (decDigitEffect_of_overflow hv hw) respWord_nil
  · exact hanswer ((decDigitEffect_of_kept hv hw).trans (decWordEffect_of_le_two hw hclear hm hb))
      (respWord_byte _)
  · exact hanswer ((decDigitEffect_of_kept hv hw).trans (decWordEffect_of_three_le hw hclear hm hb))
      (respWord_two_bytes _)

/-! ## DEC_END -/

/-- R113: DEC_END closes the session, and its byte is the low byte of the pending bits with a lone digit above
them, where these make 8 bits. -/
theorem decEndEffect_eq {s : State} (hl : s.Legal) (hm : s.mode = .dec) :
    decEndEffect s = ⟨{ s with mode := .idle, acc := 0, bcnt := 0, lv := false, lval := 0 },
      if 8 ≤ (loneAccum s).count then
        [BitVec.ofNat 8 (s.acc.toNat + s.lval.toNat * 2 ^ s.bcnt.toNat)] else []⟩ := by
  obtain ⟨-, -, hval⟩ := loneAccum_within hl hm
  rw [decEndEffect, Accum.low_eq_ofNat, hval]
  rfl

/-- R113: DEC_END's response in the ranges of its bit count. -/
theorem exec_decEnd_of_dec {s : State} (hl : s.Legal) (hm : s.mode = .dec) :
    exec .decEnd s = .next (answered
      (if 8 ≤ (loneAccum s).count then
        0x10000 + (s.acc.toNat + s.lval.toNat * 2 ^ s.bcnt.toNat) % 2 ^ 8 else 0)
      { s with mode := .idle, acc := 0, bcnt := 0, lv := false, lval := 0 }) := by
  refine exec_of_response (i := .decEnd) hl rfl (decide_eq_true hm) (decEndEffect_eq hl hm) ?_
  split
  · exact respWord_byte _
  · exact respWord_nil

/-- Settles O13: the 7 bits of a lone digit and at least one pending bit make 8; at most 7 pending bits alone do
not. -/
theorem decEndFollowsRule : Obligations.DecEndFollowsRule := by
  refine ⟨wordOf_encode (i := .decEnd) rfl, reservedWord_of_bare (i := .decEnd) rfl, fun s hl =>
    ⟨fun hm => exec_of_mode_mismatch hl rfl (decide_eq_false hm), fun hm hv => ?_, fun hm hv hb => ?_,
      fun hm hv hb => ?_⟩⟩
  all_goals rw [exec_decEnd_of_dec hl hm]
  · have hle := hl.bcnt_le_of_dec hm
    rw [loneAccum_of_not_pending hv, State.accum_count, if_neg (by omega)]
  · rw [loneAccum_of_pending hv, Accum.ins_count, State.accum_count, if_neg (by omega)]
  · rw [loneAccum_of_pending hv, Accum.ins_count, State.accum_count, if_pos (by omega)]

end Sys2Proof.Machine

/-! The length of a decode session's output and its edge cases (R112, R115, O50 and O53). A session's output is the
whole bytes of its digits' stream (O51), so both are facts of the streams of digit lists put one behind another. -/

namespace Sys2Proof.Machine

open Sys2Proof.Claims

/-! ## How many bytes a session emits -/

/-- R52: the output of a decode session is the whole bytes of the stream of its digits. -/
theorem programOutput_decodeSession {s : State} (hl : s.Legal) (text : List CodePoint) :
    programOutput (decodeSession text) s =
      some (bitBytes (digitStream (digitsOf text)) (digitBits (digitsOf text))) :=
  decodeStreamIsLittleEndian s text hl

theorem bitBytes_length (v n : Nat) : (bitBytes v n).length = n / 8 := by simp [bitBytes]

theorem keptPairs_le (ds : List Nat) : keptPairs ds ≤ ds.length / 2 := by
  induction ds using keptPairs.induct with
  | case1 lo hi rest ih =>
    have hpair : (if 91 * hi + lo ≤ 8191 then 1 else 0) ≤ 1 := by split <;> decide
    rw [keptPairs, List.length_cons, List.length_cons]
    omega
  | case2 lo => simp [keptPairs]
  | case3 => simp [keptPairs]

/-- R115: a digit list decodes to the whole bytes of its stream. -/
theorem decodedLength_eq (ds : List Nat) : decodedLength ds = digitBits ds / 8 := rfl

/-- R115: 13 bits for every two symbols and 7 for a lone one are at most 8 a symbol. -/
theorem decodedLength_le (ds : List Nat) : decodedLength ds ≤ ds.length := by
  have := keptPairs_le ds
  unfold decodedLength
  omega

/-- Settles O50: the stream has 13 bits for each kept pair and 7 for a lone digit. -/
theorem decodeOutputLength : Obligations.DecodeOutputLength := fun _ text hl =>
  ⟨_, programOutput_decodeSession hl text, bitBytes_length _ _, keptPairs_le _,
    (bitBytes_length _ _).trans_le (decodedLength_le _), List.length_filterMap_le _ _⟩

/-! ## Texts put one behind another -/

theorem digitsOf_append (before after : List CodePoint) :
    digitsOf (before ++ after) = digitsOf before ++ digitsOf after :=
  List.filterMap_append

theorem digitsOf_cons_of_symbol {cp : CodePoint} {d : Digit} (h : SymbolOf cp d)
    (text : List CodePoint) : digitsOf (cp :: text) = d.val :: digitsOf text := by
  rw [digitsOf_cons, symDigit_eq_some.mpr h]
  rfl

theorem digitsOf_of_noSymbol {text : List CodePoint} (h : ∀ cp ∈ text, NoSymbol cp) :
    digitsOf text = [] := by
  refine List.filterMap_eq_nil_iff.mpr fun cp hcp => ?_
  rw [← symDigit_eq_sourceDigit, symDigit_eq_none_of_noSymbol (h cp hcp)]
  rfl

/-- R110 (v): whole pairs have 13 bits for each that is kept, and no lone digit. -/
theorem digitBits_of_even {ds : List Nat} (h : ds.length % 2 = 0) : digitBits ds = 13 * keptPairs ds := by
  rw [digitBits, h, Nat.mul_zero, Nat.add_zero]

/-- R52: the bits of whole pairs come first, those of the digits after them lie above. -/
theorem digitStream_append {ds : List Nat} (h : ds.length % 2 = 0) (es : List Nat) :
    digitStream (ds ++ es) = digitStream ds + 2 ^ digitBits ds * digitStream es ∧
      digitBits (ds ++ es) = digitBits ds + digitBits es := by
  induction ds using keptPairs.induct with
  | case1 lo hi rest ih =>
    obtain ⟨hstream, hbits⟩ := ih ((Nat.add_mod_right rest.length 2).symm.trans h)
    rw [List.cons_append, List.cons_append]
    by_cases hkept : 91 * hi + lo ≤ 8191
    · obtain ⟨hs, hb⟩ := digitStream_of_kept hkept rest
      obtain ⟨hs', hb'⟩ := digitStream_of_kept hkept (rest ++ es)
      rw [hs, hb, hs', hb', hstream, hbits]
      exact ⟨by ring, by omega⟩
    · obtain ⟨hs, hb⟩ := digitStream_of_overflow hkept rest
      obtain ⟨hs', hb'⟩ := digitStream_of_overflow hkept (rest ++ es)
      rw [hs, hb, hs', hb']
      exact ⟨hstream, hbits⟩
  | case2 lo => simp at h
  | case3 => simp [digitStream, digitBits, keptPairs]

/-- R52: the stream of whole pairs fits in its bits. -/
theorem digitStream_lt {ds : List Nat} (h : ds.length % 2 = 0) : digitStream ds < 2 ^ digitBits ds := by
  induction ds using keptPairs.induct with
  | case1 lo hi rest ih =>
    have hlt := ih ((Nat.add_mod_right rest.length 2).symm.trans h)
    by_cases hkept : 91 * hi + lo ≤ 8191
    · obtain ⟨hs, hb⟩ := digitStream_of_kept hkept rest
      rw [hs, hb, Nat.pow_add]
      omega
    · obtain ⟨hs, hb⟩ := digitStream_of_overflow hkept rest
      rwa [hs, hb]
  | case2 lo => simp at h
  | case3 => simp [digitStream]

/-- R112: a pair that overflows between whole pairs and other digits leaves no bit in the stream. -/
theorem digitStream_append_overflow {ds : List Nat} (h : ds.length % 2 = 0) {lo hi : Nat}
    (hover : ¬ 91 * hi + lo ≤ 8191) (es : List Nat) :
    digitStream (ds ++ lo :: hi :: es) = digitStream (ds ++ es) ∧
      digitBits (ds ++ lo :: hi :: es) = digitBits (ds ++ es) := by
  obtain ⟨hs, hb⟩ := digitStream_append h (lo :: hi :: es)
  obtain ⟨hs', hb'⟩ := digitStream_append h es
  obtain ⟨hstream, hbits⟩ := digitStream_of_overflow hover es
  rw [hs, hb, hs', hb', hstream, hbits]
  exact ⟨rfl, rfl⟩

/-- R52: the word of a kept pair stands above the bits of the whole pairs before it. -/
theorem digitStream_word {ds : List Nat} (h : ds.length % 2 = 0) {lo hi : Nat}
    (hkept : 91 * hi + lo ≤ 8191) (es : List Nat) :
    digitStream (ds ++ lo :: hi :: es) / 2 ^ digitBits ds % 2 ^ 13 = 91 * hi + lo := by
  obtain ⟨hstream, -⟩ := digitStream_append h (lo :: hi :: es)
  obtain ⟨hpair, -⟩ := digitStream_of_kept hkept es
  rw [hstream, hpair, Nat.add_mul_div_left _ _ (by positivity), Nat.div_eq_of_lt (digitStream_lt h)]
  omega

/-! ## Streams put one above another -/

/-- R52: the whole bytes of the lower `n` bits, then those of its last bits and the stream above them. -/
theorem bitBytes_add (v x n m : Nat) :
    bitBytes (v + 2 ^ n * x) (n + m) =
      bitBytes v n ++ bitBytes (v / 2 ^ (8 * (n / 8)) + 2 ^ (n % 8) * x) (n % 8 + m) := by
  induction n using Nat.strong_induction_on generalizing v with
  | h n ih =>
    rcases Nat.lt_or_ge n 8 with hlt | hge
    · simp [bitBytes_of_lt hlt, Nat.div_eq_of_lt hlt, Nat.mod_eq_of_lt hlt]
    · obtain ⟨k, rfl⟩ := Nat.exists_eq_add_of_le' hge
      have hpow : 2 ^ (k + 8) * x = 2 ^ 8 * (2 ^ k * x) := by ring
      have hfirst : BitVec.ofNat 8 (v + 2 ^ (k + 8) * x) = BitVec.ofNat 8 v := by
        apply BitVec.eq_of_toNat_eq
        rw [BitVec.toNat_ofNat, BitVec.toNat_ofNat, hpow, Nat.add_mul_mod_self_left]
      have hrest : (v + 2 ^ (k + 8) * x) / 2 ^ 8 = v / 2 ^ 8 + 2 ^ k * x := by
        rw [hpow, Nat.add_mul_div_left _ _ (by decide)]
      have hdrop : v / 2 ^ 8 / 2 ^ (8 * (k / 8)) = v / 2 ^ (8 * ((k + 8) / 8)) := by
        rw [Nat.div_div_eq_div_mul, ← Nat.pow_add, Nat.add_div_right _ (by decide), Nat.mul_succ,
          Nat.add_comm]
      rw [bitBytes_of_le (by omega), bitBytes_of_le (n := k + 8) (by omega), hfirst, hrest,
        Nat.add_right_comm, Nat.add_sub_cancel, Nat.add_sub_cancel, ih k (by omega), hdrop,
        Nat.add_mod_right, List.cons_append]

/-- R50: the number that whole bytes of a stream stand for. -/
theorem byteStream_bitBytes (v n : Nat) : byteStream (bitBytes v n) = v % 2 ^ (8 * (n / 8)) := by
  induction n using Nat.strong_induction_on generalizing v with
  | h n ih =>
    rcases Nat.lt_or_ge n 8 with hlt | hge
    · simp [bitBytes_of_lt hlt, Nat.div_eq_of_lt hlt, byteStream, Nat.mod_one]
    · obtain ⟨k, rfl⟩ := Nat.exists_eq_add_of_le' hge
      rw [bitBytes_of_le hge, byteStream, Nat.add_sub_cancel, ih k (by omega), BitVec.toNat_ofNat,
        Nat.add_div_right _ (by decide), Nat.mul_succ, Nat.add_comm (8 * _), Nat.pow_add, Nat.mod_mul]

/-- R50, R52: reading bits back from the whole bytes of a stream, where they are within these. -/
theorem byteStream_bitBytes_div_mod {i k n : Nat} (h : i + k ≤ 8 * (n / 8)) (v : Nat) :
    byteStream (bitBytes v n) / 2 ^ i % 2 ^ k = v / 2 ^ i % 2 ^ k := by
  obtain ⟨m, hm⟩ := Nat.exists_eq_add_of_le h
  rw [byteStream_bitBytes, hm, Nat.add_assoc, Nat.pow_add, Nat.mod_mul_right_div_self,
    Nat.mod_mod_of_dvd _ (Nat.pow_dvd_pow 2 (Nat.le_add_right k m))]

/-- R113: fewer than 16 bits hold one whole byte or none. -/
theorem bitBytes_of_lt_sixteen {n : Nat} (h : n < 16) (v : Nat) :
    bitBytes v n = if n < 8 then [] else [BitVec.ofNat 8 v] := by
  split
  · exact bitBytes_of_lt ‹_› v
  · rw [bitBytes_of_le (by omega), bitBytes_of_lt (by omega)]

/-- The whole bytes of 26 bits. -/
theorem bitBytes_twenty_six (v : Nat) :
    bitBytes v 26 = [BitVec.ofNat 8 v, BitVec.ofNat 8 (v / 2 ^ 8), BitVec.ofNat 8 (v / 2 ^ 16)] := by
  simp [bitBytes, List.range_succ]

/-- R112: the bytes of the word 8190 or 8191 and a word after it. -/
theorem bitBytes_of_two_words {d : Nat} (hd : d ≤ 1) (w : Nat) :
    bitBytes (8190 + d + 2 ^ 13 * w) 26 =
      [BitVec.ofNat 8 (0xFE + d), BitVec.ofNat 8 (0x1F + 2 ^ 5 * w), BitVec.ofNat 8 (w / 2 ^ 3)] := by
  have hfirst : BitVec.ofNat 8 (8190 + d + 2 ^ 13 * w) = BitVec.ofNat 8 (0xFE + d) := by
    apply BitVec.eq_of_toNat_eq
    simp only [BitVec.toNat_ofNat]
    omega
  have hsecond : (8190 + d + 2 ^ 13 * w) / 2 ^ 8 = 0x1F + 2 ^ 5 * w := by omega
  have hthird : (8190 + d + 2 ^ 13 * w) / 2 ^ 16 = w / 2 ^ 3 := by omega
  rw [bitBytes_twenty_six, hfirst, hsecond, hthird]

/-! ## The rows of R112 -/

section
variable {s : State} (hl : s.Legal)
include hl

/-- R112, no valid symbols: there is no digit. -/
theorem decodeSession_of_noSymbol {text : List CodePoint} (hno : ∀ cp ∈ text, NoSymbol cp) :
    programOutput (decodeSession text) s = some [] := by
  rw [programOutput_decodeSession hl, digitsOf_of_noSymbol hno]
  rfl

/-- R112, a lone last symbol: its 7 bits make a byte with the pending ones, or are dropped. -/
theorem decodeSession_append_lone {before : List CodePoint} (hpairs : WholePairs before) {cp : CodePoint}
    {d : Digit} (hsym : SymbolOf cp d) :
    programOutput (decodeSession (before ++ [cp])) s =
      some (bitBytes (digitStream (digitsOf before)) (digitBits (digitsOf before)) ++
        if pendingBits before + 7 < 8 then []
        else [BitVec.ofNat 8 (digitStream (digitsOf before) / 2 ^ (8 * (digitBits (digitsOf before) / 8))
          + 2 ^ pendingBits before * d.val)]) := by
  have hdigits : digitsOf (before ++ [cp]) = digitsOf before ++ [d.val] := by
    rw [digitsOf_append, digitsOf_cons_of_symbol hsym]
    rfl
  obtain ⟨hstream, hbits⟩ := digitStream_append hpairs [d.val]
  have hloneStream : digitStream [d.val] = d.val := rfl
  have hloneBits : digitBits [d.val] = 7 := rfl
  have hpending : digitBits (digitsOf before) % 8 = pendingBits before := by
    rw [digitBits_of_even hpairs, pendingBits]
  have hlt : pendingBits before < 8 := Nat.mod_lt _ (by decide)
  rw [programOutput_decodeSession hl, hdigits, hstream, hbits, hloneStream, hloneBits, bitBytes_add,
    hpending, bitBytes_of_lt_sixteen (n := pendingBits before + 7) (by omega)]

/-- R112, one symbol: nothing is pending, so its 7 bits are dropped. -/
theorem decodeSession_single {cp : CodePoint} {d : Digit} (hsym : SymbolOf cp d) :
    programOutput (decodeSession [cp]) s = some [] :=
  decodeSession_append_lone hl (before := []) rfl hsym

/-- R112, a lone symbol after the pair (0, 0): its digit stands above the five zeros pending. -/
theorem decodeSession_zero_pair_append_lone {zero cp : CodePoint} {d : Digit} (hzero : SymbolOf zero 0)
    (hsym : SymbolOf cp d) :
    programOutput (decodeSession [zero, zero, cp]) s = some [0#8, BitVec.ofNat 8 (2 ^ 5 * d.val)] := by
  have hdigits : digitsOf [zero, zero] = [0, 0] := by
    rw [digitsOf_cons_of_symbol hzero, digitsOf_cons_of_symbol hzero]
    rfl
  have hpairs : WholePairs [zero, zero] := by
    rw [WholePairs, hdigits]
    rfl
  have hpending : pendingBits [zero, zero] = 5 := by
    rw [pendingBits, hdigits]
    rfl
  have hfirst : bitBytes (digitStream [0, 0]) (digitBits [0, 0]) = [0#8] := by decide
  have hout := decodeSession_append_lone hl hpairs hsym
  rw [hdigits, hpending, hfirst] at hout
  simpa [digitStream] using hout

/-- R112, the pairs (0, 90) and (1, 90) alone: the low byte of the word goes out. -/
theorem decodeSession_ninety_pair {lo hi : CodePoint} {d : Digit} (hlo : SymbolOf lo d) (hd : d.val ≤ 1)
    (hhi : SymbolOf hi 90) :
    programOutput (decodeSession [lo, hi]) s = some [BitVec.ofNat 8 (8190 + d.val)] := by
  obtain ⟨hs, hb⟩ := digitStream_of_kept (lo := d.val) (hi := 90) (by omega) []
  rw [programOutput_decodeSession hl, digitsOf_cons_of_symbol hlo, digitsOf_cons_of_symbol hhi]
  exact congrArg some ((congrArg₂ bitBytes hs hb).trans (bitBytes_of_lt_sixteen (by decide) _))

/-- R112, the pairs (0, 90) and (1, 90) before a second pair: all bits of the word go out. -/
theorem decodeSession_ninety_pair_append_pair {lo hi lo' hi' : CodePoint} {d a b : Digit}
    (hlo : SymbolOf lo d) (hd : d.val ≤ 1) (hhi : SymbolOf hi 90) (hlo' : SymbolOf lo' a)
    (hhi' : SymbolOf hi' b) (hkept : 91 * b.val + a.val ≤ 8191) :
    programOutput (decodeSession [lo, hi, lo', hi']) s =
      some [BitVec.ofNat 8 (0xFE + d.val), BitVec.ofNat 8 (0x1F + 2 ^ 5 * (91 * b.val + a.val)),
        BitVec.ofNat 8 ((91 * b.val + a.val) / 2 ^ 3)] := by
  obtain ⟨hs, hb⟩ := digitStream_of_kept (lo := d.val) (hi := 90) (by omega) [a.val, b.val]
  obtain ⟨hs', hb'⟩ := digitStream_of_kept hkept []
  rw [hs'] at hs
  rw [hb'] at hb
  rw [programOutput_decodeSession hl, digitsOf_cons_of_symbol hlo, digitsOf_cons_of_symbol hhi,
    digitsOf_cons_of_symbol hlo', digitsOf_cons_of_symbol hhi']
  exact congrArg some ((congrArg₂ bitBytes hs hb).trans (bitBytes_of_two_words hd _))

/-- R112, the pairs (0, 90) and (1, 90) after whole pairs: the word is read back from the output. -/
theorem decodeSession_append_ninety_pair {before rest : List CodePoint} (hpairs : WholePairs before)
    {lo hi : CodePoint} {d : Digit} (hlo : SymbolOf lo d) (hd : d.val ≤ 1) (hhi : SymbolOf hi 90)
    (hlen : 13 * keptPairs (digitsOf before) + 13 ≤
      8 * decodedLength (digitsOf (before ++ lo :: hi :: rest))) :
    ∃ out, programOutput (decodeSession (before ++ lo :: hi :: rest)) s = some out ∧
      byteStream out / 2 ^ (13 * keptPairs (digitsOf before)) % 2 ^ 13 = 8190 + d.val := by
  refine ⟨_, programOutput_decodeSession hl _, ?_⟩
  rw [decodedLength_eq] at hlen
  rw [byteStream_bitBytes_div_mod hlen, ← digitBits_of_even hpairs, digitsOf_append,
    digitsOf_cons_of_symbol hlo, digitsOf_cons_of_symbol hhi]
  exact digitStream_word (hi := 90) hpairs (by omega) _

/-- R112, an overflow pair after whole pairs: it is no part of the stream. -/
theorem decodeSession_append_overflow_pair {before : List CodePoint} (hpairs : WholePairs before)
    (rest : List CodePoint) {lo hi : CodePoint} {d : Digit} (hlo : SymbolOf lo d) (hd : 2 ≤ d.val)
    (hhi : SymbolOf hi 90) :
    programOutput (decodeSession (before ++ lo :: hi :: rest)) s =
      programOutput (decodeSession (before ++ rest)) s := by
  obtain ⟨hstream, hbits⟩ := digitStream_append_overflow hpairs (lo := d.val) (hi := 90) (by omega)
    (digitsOf rest)
  rw [programOutput_decodeSession hl, programOutput_decodeSession hl, digitsOf_append, digitsOf_append,
    digitsOf_cons_of_symbol hlo, digitsOf_cons_of_symbol hhi]
  exact congrArg some (congrArg₂ bitBytes hstream hbits)

end

/-- Settles O53: each row is a fact of the stream of its text's digits. -/
theorem decoderEdgeCases : Obligations.DecoderEdgeCases := by
  refine fun s hl => ⟨decodeSession_of_noSymbol hl nofun, fun _ => decodeSession_of_noSymbol hl,
    fun _ _ => decodeSession_single hl, fun _ _ _ => decodeSession_zero_pair_append_lone hl,
    fun before cp d hpairs hsym => ?_, fun lo hi hlo => decodeSession_ninety_pair hl hlo (by decide),
    fun lo hi hlo => decodeSession_ninety_pair hl hlo (by decide),
    fun _ _ _ _ _ _ _ => decodeSession_ninety_pair_append_pair hl,
    fun _ _ _ _ _ hpairs => decodeSession_append_ninety_pair hl hpairs,
    fun _ rest _ _ _ hpairs => decodeSession_append_overflow_pair hl hpairs rest⟩
  refine ⟨_, programOutput_decodeSession hl before, ?_⟩
  rw [decodeSession_append_lone hl hpairs hsym, bitBytes_length]

end Sys2Proof.Machine

/-! The ROM access commands of 44_rom_access.md (R120 to R122, O14, O15 and O37): both are accepted in every mode,
answer one 7-bit code, an entry of `ALPHA` or of its reverse table, and change no other register. -/

namespace Sys2Proof

/-- R60: a word whose `RSV` is zero has the bits 27:21 zero. -/
theorem toNat_div_mod_of_rsvField {w : PortWord} (h : rsvField w = 0) : w.toNat / 2 ^ 21 % 2 ^ 7 = 0 := by
  rw [← rsvField_toNat, h]
  rfl

/-- R62, R64 (c): every `ARG` is a code point, so a word of REV_RD is reserved only by its bits 27:21. -/
theorem decode_eq_reservedOperand_of_revRd {w : PortWord} (hop : w.toNat / 2 ^ 28 = 0x8)
    (hhigh : w.toNat % 2 ^ 28 / 2 ^ 21 ≠ 0) : decode w = .error .reservedOperand := by
  refine decode_eq_reservedOperand (i := .revRd 0) hop fun hrsv => absurd ?_ hhigh
  have hrsv0 := toNat_div_mod_of_rsvField hrsv
  omega

/-- R62, R64 (c), R132: a word of ALPHA_RD is reserved by its bits 27:7, and by an index without an entry. -/
theorem decode_eq_reservedOperand_of_alphaRd {w : PortWord} (hop : w.toNat / 2 ^ 28 = 0x7)
    (hbad : w.toNat % 2 ^ 28 / 2 ^ 7 ≠ 0 ∨ 90 < w.toNat % 2 ^ 7) :
    decode w = .error .reservedOperand := by
  refine decode_eq_reservedOperand (i := .alphaRd 0) hop fun hrsv => if_neg fun ⟨hhigh, hidx⟩ => ?_
  have hrsv0 := toNat_div_mod_of_rsvField hrsv
  have hhigh0 : (w.toNat % 2 ^ 21) >>> 7 % 2 ^ 14 = 0 := by
    rw [← argField_toNat, ← BitVec.extractLsb'_toNat, hhigh]
    rfl
  rw [BitVec.extractLsb'_toNat, argField_toNat] at hidx
  omega

end Sys2Proof

namespace Sys2Proof.Machine

open Sys2Proof.Claims

/-! ## A response that carries a ROM value -/

/-- R41: `entry` is the alphabet's code of a digit. -/
theorem entry_val (d : Digit) : entry d.val = (Config.alpha.code d).toNat := by
  rw [entry, Fin.ofNat_val_eq_self]

/-- R66, D26: the response that carries one ROM value. -/
theorem respWord_codeItem (c : Code) :
    respWord [codeItem c] false 0 = BitVec.ofNat 32 (0x10000 + c.toNat) := by
  rw [respWord_accepted (by simp)]
  simp

/-- R66: the host reads the ROM value from `OUT0`. -/
theorem respOut0_answered (c : Code) (s : State) :
    respOut0 (answered (0x10000 + c.toNat) s).respQ = codeItem c := by
  rw [answered, ← respWord_codeItem, respOut0_respWord]
  rfl

/-- D26: zero-extending a ROM value loses nothing. -/
theorem codeItem_injective : Function.Injective codeItem := fun c d h =>
  BitVec.eq_of_toNat_eq (by rw [← codeItem_toNat c, h, codeItem_toNat])

/-- R159: issuing the word of a command runs it. -/
theorem issue_of_wordOf {w : PortWord} {i : Instr} (hw : WordOf w i) (hwf : i.WellFormed) (s : State) :
    issue w s = exec i (s.withHost []) := by
  rw [← hw.1, issue_encode hwf]

/-! ## ALPHA_RD -/

/-- R120: an index of at most 90 reads its entry. -/
theorem alphaRdEffect_of_digit (A : Alphabet) {idx : BitVec 7} {d : Digit} (h : idx.toNat = d.val)
    (s : State) : alphaRdEffect A idx s = ⟨s, [codeItem (A.code d)]⟩ := by
  have hdigit : indexDigit idx = some d := by simp [indexDigit, h]
  rw [alphaRdEffect, hdigit, ← alphaRead_eq_code A d]
  rfl

theorem wordOf_alphaRd {idx : BitVec 7} (h : idx.toNat ≤ 90) :
    WordOf (BitVec.ofNat 32 (0x70000000 + idx.toNat)) (.alphaRd idx) :=
  wordOf_ofNat (decide_eq_true h) (by simp [Instr.opcode])
    (by simp only [Instr.argument, BitVec.toNat_setWidth]; omega)

/-- R120: what ALPHA_RD answers, in every mode. -/
theorem exec_alphaRd {idx : BitVec 7} {d : Digit} (h : idx.toNat = d.val) {s : State} (hl : s.Legal) :
    exec (.alphaRd idx) s = .next (answered (0x10000 + (Config.alpha.code d).toNat) s) :=
  have hidx : idx.toNat ≤ 90 := by omega
  exec_of_response (i := .alphaRd idx) hl (decide_eq_true hidx) rfl
    (alphaRdEffect_of_digit Config.alpha h s) (respWord_codeItem _)

/-- Settles O14: an index of at most 90 is a digit, and the words of the others are reserved. -/
theorem alphaRdFollowsRule : Obligations.AlphaRdFollowsRule := by
  refine ⟨fun idx => wordOf_alphaRd, fun w hop hbad =>
    reservedWord_of_decode (decode_eq_reservedOperand_of_alphaRd hop hbad), fun idx s hl hidx => ?_⟩
  have hanswer := exec_alphaRd (idx := idx) (d := ⟨idx.toNat, by omega⟩) rfl hl
  rwa [← entry_val] at hanswer

/-! ## REV_RD -/

/-- R121: the symbol of `d` reads as `d`. -/
theorem revValue_of_symbol {cp : CodePoint} {d : Digit} (h : SymbolOf cp d) :
    revValue Config.alpha cp = Digit.bits d := by
  rw [revValue, symDigit_eq_some.mpr h]

/-- R121: what is no symbol reads as the sentinel, a code point above 127 included. -/
theorem revValue_of_noSymbol {cp : CodePoint} (h : NoSymbol cp) :
    revValue Config.alpha cp = Config.sentinel := by
  rw [revValue, symDigit_eq_none_of_noSymbol h]

theorem wordOf_revRd (cp : CodePoint) : WordOf (BitVec.ofNat 32 (0x80000000 + cp.toNat)) (.revRd cp) :=
  wordOf_ofNat rfl (by simp [Instr.opcode]) rfl

/-- R121: what REV_RD answers, in every mode. -/
theorem exec_revRd (cp : CodePoint) {s : State} (hl : s.Legal) :
    exec (.revRd cp) s = .next (answered (0x10000 + (revValue Config.alpha cp).toNat) s) :=
  exec_of_response (i := .revRd cp) hl rfl rfl rfl (respWord_codeItem _)

/-- Settles O15: the answer is one in every mode, and its value is the digit or the sentinel. -/
theorem revRdFollowsRule : Obligations.RevRdFollowsRule := by
  refine ⟨wordOf_revRd, fun w hop hhigh =>
    reservedWord_of_decode (decode_eq_reservedOperand_of_revRd hop hhigh), fun cp s hl hno => ?_,
    fun cp d s hl hsym => ?_⟩
  · rw [exec_revRd cp hl, revValue_of_noSymbol hno]
    rfl
  · rw [exec_revRd cp hl, revValue_of_symbol hsym, Digit.bits_toNat]

/-! ## The alphabet invariant at the ports -/

/-- R121: up to 127, REV_RD reads the reverse table. -/
theorem revValue_setWidth (c : Code) : revValue Config.alpha (c.setWidth 21) = revRead Config.alpha c := by
  have hcp : (c.setWidth 21).toNat = c.toNat := BitVec.toNat_setWidth_of_le (by decide)
  obtain ⟨d, rfl, hr⟩ | ⟨hno, hr⟩ := revRead_cases Config.alpha c
  · exact (revValue_of_symbol hcp.symm).trans hr.symm
  · have hnone : NoSymbol (c.setWidth 21) := fun d hd => hno d (BitVec.eq_of_toNat_eq (hd.trans hcp))
    exact (revValue_of_noSymbol hnone).trans hr.symm

theorem issue_alphaRd (d : Digit) {s : State} (hl : s.Legal) :
    issue (BitVec.ofNat 32 (0x70000000 + d.val)) s =
      .next (answered (0x10000 + (Config.alpha.code d).toNat) (s.withHost [])) := by
  have hidx : (Digit.bits d).toNat ≤ 90 := by rw [Digit.bits_toNat]; omega
  have hissue := issue_of_wordOf (wordOf_alphaRd hidx) (decide_eq_true hidx) s
  rw [Digit.bits_toNat] at hissue
  exact hissue.trans (exec_alphaRd (s := s.withHost []) (Digit.bits_toNat d) hl)

theorem issue_revRd (c : Code) {s : State} (hl : s.Legal) :
    issue (BitVec.ofNat 32 (0x80000000 + c.toNat)) s =
      .next (answered (0x10000 + (revRead Config.alpha c).toNat) (s.withHost [])) := by
  have hissue := issue_of_wordOf (wordOf_revRd (c.setWidth 21)) rfl s
  rw [BitVec.toNat_setWidth_of_le (by decide)] at hissue
  rw [hissue, exec_revRd (s := s.withHost []) _ hl, revValue_setWidth]

/-- R122 (a): REV_RD of a code that the host has read from `OUT0`. -/
theorem issue_revRd_of_respOut0 {c : Code} {s : State} (hl : s.Legal) (hc : respOut0 s.respQ = codeItem c) :
    issue (BitVec.ofNat 32 (0x80000000 + (respOut0 s.respQ).toNat)) s =
      .next (answered (0x10000 + (revRead Config.alpha c).toNat) (s.withHost [])) := by
  rw [hc, codeItem_toNat, issue_revRd c hl]

/-- R45, R122 (c): the codes that REV_RD answers with other than the sentinel are the alphabet's. -/
theorem issue_revRd_ne_sentinel {s : State} (hl : s.Legal) :
    {c : Code | ∃ t, issue (BitVec.ofNat 32 (0x80000000 + c.toNat)) s = .next t ∧
      respOut0 t.respQ ≠ 0x7F#8} = Set.range Config.alpha.code := by
  ext c
  have hsentinel : codeItem (revRead Config.alpha c) = 0x7F#8 ↔ ∀ d : Digit, Config.alpha.code d ≠ c :=
    (codeItem_injective.eq_iff (b := Config.sentinel)).trans revRead_eq_sentinel
  simp [issue_revRd c hl, respOut0_answered, hsentinel]

/-- Settles O37: at the ports ALPHA_RD reads the alphabet and REV_RD the table that inverts it (R45). -/
theorem romInvariantAtPorts : Obligations.RomInvariantAtPorts := by
  refine fun s hl => ⟨fun d => ?_, fun i j t u ht hu hout => ?_, ?_⟩
  · refine ⟨_, _, issue_alphaRd d hl, issue_revRd_of_respOut0 hl (respOut0_answered _ _), ?_⟩
    rw [respOut0_answered, codeItem_toNat, revRead_code, Digit.bits_toNat]
  · rw [issue_alphaRd i hl, Host.Outcome.next.injEq] at ht
    rw [issue_alphaRd j hl, Host.Outcome.next.injEq] at hu
    rw [← ht, ← hu, respOut0_answered, respOut0_answered] at hout
    exact Config.alpha.distinct i j (codeItem_injective hout)
  · rw [issue_revRd_ne_sentinel hl, Config.alpha.ncard_range_code]

end Sys2Proof.Machine

/-! The command check of 60_exceptions.md (R131 to R135, O2). R132 is compared with the decoder in the order of its
lines: the opcode, the reserved bits, the operand, which the decoder checks, and last the mode, which R133's table
reads from the opcode. Then what an accepted command leaves: no flag raised, `REJ` and `ECODE` 0. -/

namespace Sys2Proof

/-! ## The operand checks of R132 -/

/-- R132's three operand lines: an operand that the opcode `op` does not admit. -/
abbrev ReservedArg (op arg : Nat) : Prop :=
  ((op = 0x0 ∨ op = 0x1 ∨ op = 0x2 ∨ op = 0x4 ∨ op = 0x6) ∧ arg ≠ 0) ∨
    (op = 0x3 ∧ arg / 2 ^ 8 ≠ 0) ∨ (op = 0x7 ∧ (arg / 2 ^ 7 ≠ 0 ∨ 90 < arg % 2 ^ 7))

/-- R60: the bits of `ARG` from position `m` up are zero where the quotient by `2 ^ m` is. -/
theorem argHigh_eq_zero_iff {m n : Nat} (h : m + n = 21) (arg : BitVec 21) :
    arg.extractLsb' m n = 0 ↔ arg.toNat / 2 ^ m = 0 := by
  have hlt : arg.toNat / 2 ^ m < 2 ^ n :=
    Nat.div_lt_of_lt_mul (by rw [← pow_add, h]; exact arg.isLt)
  rw [← BitVec.toNat_inj, BitVec.extractLsb'_toNat, Nat.shiftRight_eq_div_pow, Nat.mod_eq_of_lt hlt]
  rfl

/-- R62, R132: the decoder refuses the operands of R132's lines. -/
theorem decodeOperand_of_reservedArg {op : Nat} {arg : BitVec 21} (h : ReservedArg op arg.toNat) :
    decodeOperand op arg = .error .reservedOperand := by
  obtain ⟨hop, harg⟩ | ⟨rfl, harg⟩ | ⟨rfl, harg⟩ := h
  · have hne : arg ≠ 0 := fun h0 => harg (congrArg BitVec.toNat h0)
    obtain rfl | rfl | rfl | rfl | rfl := hop <;> exact if_neg hne
  · exact if_neg fun h0 => harg ((argHigh_eq_zero_iff rfl arg).mp h0)
  · refine if_neg fun ⟨hhigh, hidx⟩ => ?_
    rw [argHigh_eq_zero_iff rfl] at hhigh
    rw [BitVec.extractLsb'_toNat] at hidx
    omega

/-- R61, R62, R132: any other operand of a legal opcode decodes to a well-formed command of that opcode. -/
theorem decodeOperand_of_not_reservedArg {op : Nat} (hop : op < 9) {arg : BitVec 21}
    (h : ¬ ReservedArg op arg.toNat) :
    ∃ i : Instr, i.WellFormed ∧ i.opcode.toNat = op ∧ decodeOperand op arg = .ok i := by
  unfold ReservedArg at h
  have hzero (hbare : op = 0x0 ∨ op = 0x1 ∨ op = 0x2 ∨ op = 0x4 ∨ op = 0x6) : arg = 0 :=
    BitVec.eq_of_toNat_eq (by simp only [BitVec.ofNat_eq_ofNat, BitVec.toNat_ofNat]; omega)
  match op, hop with
  | 0x0, _ => exact ⟨.nop, rfl, rfl, if_pos (hzero (by decide))⟩
  | 0x1, _ => exact ⟨.startEnc, rfl, rfl, if_pos (hzero (by decide))⟩
  | 0x2, _ => exact ⟨.startDec, rfl, rfl, if_pos (hzero (by decide))⟩
  | 0x3, _ =>
    exact ⟨.encByte (arg.extractLsb' 0 8), rfl, rfl,
      if_pos ((argHigh_eq_zero_iff rfl arg).mpr (by omega))⟩
  | 0x4, _ => exact ⟨.encEnd, rfl, rfl, if_pos (hzero (by decide))⟩
  | 0x5, _ => exact ⟨.decSym arg, rfl, rfl, rfl⟩
  | 0x6, _ => exact ⟨.decEnd, rfl, rfl, if_pos (hzero (by decide))⟩
  | 0x7, _ =>
    have hidx : (arg.extractLsb' 0 7).toNat ≤ 90 := by rw [BitVec.extractLsb'_toNat]; omega
    exact ⟨.alphaRd (arg.extractLsb' 0 7), decide_eq_true hidx, rfl,
      if_pos ⟨(argHigh_eq_zero_iff rfl arg).mpr (by omega), hidx⟩⟩
  | 0x8, _ => exact ⟨.revRd arg, rfl, rfl, rfl⟩

end Sys2Proof

namespace Sys2Proof.Machine

open Sys2Proof.Claims

/-! ## R132's check and the decoder -/

/-- R133: the table by opcode number says what the check reads from the command. -/
theorem modeTable_opcode (m : Mode) (i : Instr) : modeTable m i.opcode.toNat = modeOK m i := by
  cases i <;> cases m <;> rfl

/-- R132: its lines over the fields that the decoder reads. -/
theorem specCheck_eq (m : Mode) (w : PortWord) :
    specCheck m w =
      if 0x9 ≤ (opField w).toNat then 1
      else if rsvField w ≠ 0 then 2
      else if ReservedArg (opField w).toNat (argField w).toNat then 2
      else if modeTable m (opField w).toNat = false then 3
      else 0 := by
  simp only [ReservedArg, ite_or, ← BitVec.toNat_ne_iff_ne, opField_toNat, rsvField_toNat, argField_toNat]
  rfl

/-- R132: where the check finds an opcode or operand error, it is the decoder's; otherwise the word decodes to a
well-formed command, and the mode decides. -/
theorem specCheck_cases (m : Mode) (w : PortWord) :
    (∃ e, decode w = .error e ∧ specCheck m w = (Cause.ofDecodeError e).code.toNat) ∨
      (∃ i : Instr, decode w = .ok i ∧ i.WellFormed ∧
        specCheck m w = if modeOK m i = false then 3 else 0) := by
  rw [specCheck_eq, decode]
  by_cases hop : 9 ≤ (opField w).toNat
  · rw [if_pos hop, if_pos hop]
    exact .inl ⟨_, rfl, rfl⟩
  rw [if_neg hop, if_neg hop]
  by_cases hrsv : rsvField w ≠ 0
  · rw [if_pos hrsv, if_pos hrsv]
    exact .inl ⟨_, rfl, rfl⟩
  rw [if_neg hrsv, if_neg hrsv]
  by_cases harg : ReservedArg (opField w).toNat (argField w).toNat
  · rw [if_pos harg, decodeOperand_of_reservedArg harg]
    exact .inl ⟨_, rfl, rfl⟩
  · obtain ⟨i, hwf, hi, hdec⟩ := decodeOperand_of_not_reservedArg (not_le.mp hop) harg
    rw [if_neg harg, hdec, ← hi, modeTable_opcode]
    exact .inr ⟨i, rfl, hwf, rfl⟩

/-! ## What an accepted command leaves -/

/-- R26: the three sticky flags. -/
def State.errorFlags (s : State) : Bool × Bool × Bool := (s.errIll, s.errOpnd, s.errMode)

theorem decDigitEffect_errorFlags (d : Digit) (s : State) :
    (decDigitEffect d s).state.errorFlags = s.errorFlags := by
  unfold decDigitEffect
  split
  · rfl
  · split <;> rfl

theorem decSymEffect_errorFlags (A : Alphabet) (cp : CodePoint) (s : State) :
    (decSymEffect A cp s).state.errorFlags = s.errorFlags := by
  unfold decSymEffect
  split
  · rfl
  · exact decDigitEffect_errorFlags _ s

/-- R26, R135: no command's effect writes an error flag. -/
theorem effectOf_errorFlags (i : Instr) (s : State) : (effectOf i s).state.errorFlags = s.errorFlags := by
  cases i with
  | decSym cp => exact decSymEffect_errorFlags Config.alpha cp s
  | nop | startEnc | startDec | encByte _ | encEnd | decEnd | alphaRd _ | revRd _ => rfl

/-- R66: `REJ`, bit 18. -/
theorem respRejected_respWord (out : List Byte) (rej : Bool) (e : BitVec 2) :
    respRejected (respWord out rej e) = rej := by
  simp only [respRejected, respWord, BitVec.getLsbD_append]
  simp

/-- R66: `ECODE`, bits 20:19. -/
theorem respCode_respWord (out : List Byte) (rej : Bool) (e : BitVec 2) :
    respCode (respWord out rej e) = e := by
  simp (disch := decide) only [respCode, respWord, BitVec.extractLsb'_append_eq_of_le, Nat.reduceSub,
    BitVec.extractLsb'_append_eq_right]

/-! ## One step -/

/-- R68: a word that decodes is run in the state with that word taken. -/
theorem step_of_ok {s : State} {w : PortWord} {rest : List HostAction} {i : Instr}
    (h : s.host = .command w :: rest) (hd : decode w = .ok i) :
    step s = exec i (s.withHost rest) := by simp [step, fetch_command h, hd]

/-- Settles O2: R132's first cause is the decoder's error or else the mode, and an accepted command completes. -/
theorem stepChecksThenRunsOrRejects : Obligations.StepChecksThenRunsOrRejects := by
  intro s w rest hl hhost
  have hl' : (s.withHost rest).Legal := hl
  obtain ⟨e, hdec, hcheck⟩ | ⟨i, hdec, hwf, hcheck⟩ := specCheck_cases s.mode w
  · have hcode : specCheck s.mode w ≠ 0 := by rw [hcheck]; cases e <;> decide
    refine ⟨fun _ => ?_, fun h => absurd h hcode⟩
    rw [step_of_error hhost hdec, rejectWord, whenLegal_of_legal hl', reject_eq_rejected, ← hcheck]
    rfl
  · have hstep := step_of_ok hhost hdec
    cases hm : modeOK s.mode i with
    | false =>
      rw [hm, if_pos rfl] at hcheck
      refine ⟨fun _ => ?_, fun h => absurd h (by simp [hcheck])⟩
      rw [hstep, exec_of_mode_mismatch hl' hwf hm, hcheck]
      rfl
    | true =>
      rw [hm, if_neg (by decide)] at hcheck
      refine ⟨fun h => absurd hcheck h, fun _ => ?_⟩
      have hnext := hstep.trans (exec_of_accepted hl' hwf hm)
      have hflags := effectOf_errorFlags i (s.withHost rest)
      simp only [State.errorFlags, Prod.mk.injEq] at hflags
      obtain ⟨hill, hopnd, hmode⟩ := hflags
      exact ⟨i, _, hdec, hstep, hnext, hill, hopnd, hmode, respRejected_respWord _ _ _,
        respCode_respWord _ _ _⟩

end Sys2Proof.Machine

/-! The family 70_reset_and_hazards.md: the ports after a reset (R150, O16). -/

namespace Sys2Proof.Machine

/-- R150: STATUS reads 0 after reset: every field on the port is one that reset writes. -/
@[simp] theorem State.resetRegisters_status (s : State) : s.resetRegisters.status = 0 :=
  calc s.resetRegisters.status = State.reset.status := rfl
    _ = 0 := by decide

/-- R150: the response port reads 0 after reset. -/
@[simp] theorem State.resetRegisters_respPort (s : State) : s.resetRegisters.respPort = 0 := rfl

/-- Settles O16: the step answers `resetRegisters`, whose registers and ports do not depend on the state before. -/
theorem resetFromAnyState : Obligations.ResetFromAnyState := by
  intro s rest hhost
  exact ⟨(s.withHost rest).resetRegisters, step_of_reset hhost, by simp⟩

end Sys2Proof.Machine

/-! Decoding sessions beside the source's decoder (R114, O49), and the round trip of a session's bytes (R114, O52).
First the two tier 3 statements that earlier lemmas settle as they stand (O3, O20). -/

namespace Sys2Proof.Machine

open Sys2Proof.Claims

/-- Settles O3: the fields of an encoded word are its opcode and its operand, which the decoder reads back. -/
theorem decodeOfEncode : Obligations.DecodeOfEncode := fun _ => decode_encode

/-- Settles O20: a step waits, resets, rejects or completes a command, and each keeps the bounds. -/
theorem stepKeepsLegal : Obligations.StepKeepsLegal := fun _ _ => step_keeps_legal

/-! ## The loop of R110 -/

/-- R110: the source's drain and the block's take out the same bytes and leave the same bits. -/
theorem sourceBytes_eq_drainBytes (rounds : Nat) (a : Accum) :
    sourceBytes rounds a.acc.toNat a.count =
      ((drainBytes rounds a).1, (drainBytes rounds a).2.acc.toNat, (drainBytes rounds a).2.count) := by
  induction rounds generalizing a with
  | zero => rfl
  | succ rounds ih =>
    by_cases hc : 8 ≤ a.count
    · have hdrop : a.acc.toNat >>> 8 = (a.drop 8).acc.toNat := by
        rw [Accum.drop_toNat, Nat.shiftRight_eq_div_pow]
      rw [sourceBytes, if_pos hc, hdrop, ← Accum.drop_count, ih, drainBytes_round hc, Accum.low_eq_ofNat]
    · rw [sourceBytes, if_neg hc, drainBytes_stops (not_le.mp hc)]

/-- R161: once the rounds suffice, more of them change nothing. -/
theorem drainBytes_add_rounds {a : Accum} {rounds : Nat} (h : a.count < 8 * (rounds + 1)) (more : Nat) :
    drainBytes (rounds + more) a = drainBytes rounds a := by
  induction rounds generalizing a with
  | zero => exact drainBytes_stops (by omega) _
  | succ rounds ih =>
    by_cases hc : 8 ≤ a.count
    · have hrest := ih (a := a.drop 8) (by rw [Accum.drop_count]; omega)
      rw [Nat.succ_add, drainBytes_round hc, drainBytes_round hc, hrest]
    · rw [drainBytes_stops (not_le.mp hc), drainBytes_stops (not_le.mp hc)]

/-- R83, R110, R113: the source's "OR into `C` at offset `B`" is the block's append. -/
theorem Accum.ins_eq_or_shiftLeft {a : Accum} {v : BitVec 21} {k : Nat} (hv : v.toNat < 2 ^ k)
    (ha : a.acc.toNat < 2 ^ a.count) (hk : a.count + k ≤ 21) :
    (a.ins v k).acc.toNat = a.acc.toNat ||| v.toNat <<< a.count := by
  rw [Accum.ins_toNat hv ha hk, Nat.or_comm, ← Nat.shiftLeft_add_eq_or_of_lt ha, Nat.shiftLeft_eq,
    Nat.add_comm]

/-- R110: one word in the source's decoder, from the block's pending bits. -/
theorem sourceBytes_decWord (w : StreamWord) {s : State} (hl : s.Legal) (hm : s.mode = .dec) :
    sourceBytes (s.accum.count + 13) (s.accum.acc.toNat ||| w.toNat <<< s.accum.count)
        (s.accum.count + 13) =
      ((decWordEffect w s).out, (decWordEffect w s).state.accum.acc.toNat,
        (decWordEffect w s).state.accum.count) := by
  have hb : s.accum.count ≤ 7 := hl.bcnt_le_of_dec hm
  have hcount : (s.accum.ins (w.setWidth 21) 13).count = s.accum.count + 13 := Accum.ins_count _ _ _
  have hdrained := drainBytes_length 5 (s.accum.ins (w.setWidth 21) 13)
  have hrounds : drainBytes (s.accum.count + 13) (s.accum.ins (w.setWidth 21) 13) =
      drainBytes 5 (s.accum.ins (w.setWidth 21) 13) := by
    rw [show s.accum.count + 13 = 5 + (s.accum.count + 8) by omega]
    exact drainBytes_add_rounds (by omega) _
  have hstate : (decWordEffect w s).state.accum =
      (drainBytes 5 (s.accum.ins (w.setWidth 21) 13)).2 := State.setAccum_accum s (by omega)
  have hins := Accum.ins_eq_or_shiftLeft (streamWord_setWidth_lt w) hl.accFits (by omega)
  rw [streamWord_setWidth_toNat] at hins
  rw [← hins, hstate, ← hcount, sourceBytes_eq_drainBytes, hcount, hrounds]
  rfl

/-! ## The source's decoder, case by case -/

section
variable {A : Alphabet} {cp : CodePoint} (text : List CodePoint) (c b : Nat)

/-- R110 (i): the source skips what is no symbol. -/
theorem sourceDecodeFrom_of_none (l : Option Nat) (h : sourceDigit A cp.toNat = none) :
    sourceDecodeFrom A (cp :: text) c b l = sourceDecodeFrom A text c b l := by
  cases l <;> simp only [sourceDecodeFrom, h]

/-- R110: the source holds the first digit of a pair. -/
theorem sourceDecodeFrom_of_first {d : Digit} (h : sourceDigit A cp.toNat = some d) :
    sourceDecodeFrom A (cp :: text) c b none = sourceDecodeFrom A text c b (some d.val) := by
  simp only [sourceDecodeFrom, h]

/-- R110 (ii): the source discards an overflow pair. -/
theorem sourceDecodeFrom_of_overflow {d : Digit} {low : Nat} (h : sourceDigit A cp.toNat = some d)
    (hw : 8191 < 91 * d.val + low) :
    sourceDecodeFrom A (cp :: text) c b (some low) = sourceDecodeFrom A text c b none := by
  simp only [sourceDecodeFrom, h, if_pos hw]

/-- R110: the source appends the word of any other pair and drains whole bytes. -/
theorem sourceDecodeFrom_of_kept {d : Digit} {low : Nat} {r : List Byte × Nat × Nat}
    (h : sourceDigit A cp.toNat = some d) (hw : 91 * d.val + low ≤ 8191)
    (hr : sourceBytes (b + 13) (c ||| (91 * d.val + low) <<< b) (b + 13) = r) :
    sourceDecodeFrom A (cp :: text) c b (some low) = r.1 ++ sourceDecodeFrom A text r.2.1 r.2.2 none := by
  simp only [sourceDecodeFrom, h, if_neg (not_lt.mpr hw), hr]

end

/-- The source's `L` for the block's `LV` and `LVAL` (R24, R92). -/
def State.heldDigit (s : State) : Option Nat := if s.lv = true then some s.lval.toNat else none

theorem State.heldDigit_of_pending {s : State} (h : s.lv = true) : s.heldDigit = some s.lval.toNat :=
  if_pos h

theorem State.heldDigit_of_not_pending {s : State} (h : s.lv = false) : s.heldDigit = none :=
  if_neg (by simp [h])

/-- The source's decoder with the block's pending bits and digit for its `C`, `B` and `L`. -/
def sourceRest (s : State) (text : List CodePoint) : List Byte :=
  sourceDecodeFrom Config.alpha text s.accum.acc.toNat s.accum.count s.heldDigit

/-- R110: the source's decoder on a digit does what the block does. -/
theorem decDigitEffect_source {cp : CodePoint} {d : Digit} (hd : sourceDigit Config.alpha cp.toNat = some d)
    (text : List CodePoint) {s : State} (hl : s.Legal) (hm : s.mode = .dec) :
    sourceRest s (cp :: text) =
      (decDigitEffect d s).out ++ sourceRest (decDigitEffect d s).state text := by
  cases hv : s.lv with
  | false =>
    rw [decDigitEffect_of_not_pending d hv, sourceRest, State.heldDigit_of_not_pending hv,
      sourceDecodeFrom_of_first text _ _ hd, ← Digit.bits_toNat d]
    rfl
  | true =>
    rw [sourceRest, State.heldDigit_of_pending hv]
    by_cases hw : 91 * d.val + s.lval.toNat ≤ 8191
    · have hword := sourceBytes_decWord (BitVec.ofNat 13 (91 * d.val + s.lval.toNat))
        (State.clearPending_legal hl hm) hm
      rw [BitVec.toNat_ofNat, Nat.mod_eq_of_lt (by omega)] at hword
      rw [decDigitEffect_of_kept hv hw]
      exact sourceDecodeFrom_of_kept text _ _ hd hw hword
    · rw [decDigitEffect_of_overflow hv (not_le.mp hw)]
      exact sourceDecodeFrom_of_overflow text _ _ hd (not_le.mp hw)

/-- R110: the source's decoder on a code point does what the block does. -/
theorem decSymEffect_source (cp : CodePoint) (text : List CodePoint) {s : State} (hl : s.Legal)
    (hm : s.mode = .dec) :
    sourceRest s (cp :: text) = (decSymEffect Config.alpha cp s).out ++
      sourceRest (decSymEffect Config.alpha cp s).state text := by
  have hlook := symDigit_eq_sourceDigit Config.alpha cp
  rw [decSymEffect]
  cases hd : symDigit Config.alpha cp with
  | none => exact sourceDecodeFrom_of_none text _ _ _ (hlook ▸ hd)
  | some d => exact decDigitEffect_source (hlook ▸ hd) text hl hm

/-- R113: the source's last byte is DEC_END's. -/
theorem decEndEffect_source {s : State} (hl : s.Legal) (hm : s.mode = .dec) :
    sourceRest s [] = (decEndEffect s).out := by
  have hout : (decEndEffect s).out = sourceLastByte (loneAccum s).acc.toNat (loneAccum s).count := by
    rw [decEndEffect, Accum.low_eq_ofNat]
    rfl
  have hb : s.accum.count ≤ 7 := hl.bcnt_le_of_dec hm
  rw [hout, sourceRest]
  cases hv : s.lv with
  | false => rw [State.heldDigit_of_not_pending hv, loneAccum_of_not_pending hv, sourceDecodeFrom]
  | true =>
    rw [State.heldDigit_of_pending hv, loneAccum_of_pending hv, sourceDecodeFrom,
      Accum.ins_eq_or_shiftLeft (loneBits_lt s.lval) hl.accFits (by omega), loneBits_toNat,
      Accum.ins_count]

/-- R114: what a decode session still has to emit is what the source's decoder emits from the same bits. -/
theorem decodeRest_eq_sourceRest (text : List CodePoint) {s : State} (hl : s.Legal) (hm : s.mode = .dec) :
    decodeRest s (digitsOf text) = sourceRest s text := by
  induction text generalizing s with
  | nil => exact (decEndEffect_out hl hm).symm.trans (decEndEffect_source hl hm).symm
  | cons cp text ih =>
    rw [← decSymEffect_stream cp text hl hm, decSymEffect_source cp text hl hm,
      ih (decSymEffect_legal Config.alpha cp hl hm) ((decSymEffect_mode Config.alpha cp s).trans hm)]

/-- Settles O49: the sessions' stream (O51's induction) is the source's, from nothing pending on. -/
theorem decodeSessionIsSourceDecode : Obligations.DecodeSessionIsSourceDecode := by
  intro s text hl
  have hopened := complete_legal (startEffect_legal .dec (s.withHost []))
  rw [decodeSession, programOutput_cons_of_not_session hl rfl rfl rfl]
  exact (programOutput_decStr text hopened rfl).trans
    (congrArg some (decodeRest_eq_sourceRest text hopened rfl))

/-! ## The round trip -/

/-- R114: an encode session's output as the text a host decodes. -/
def textOfItems (items : List Byte) : List CodePoint := items.map fun item => item.setWidth 21

theorem textOfItems_append (xs ys : List Byte) :
    textOfItems (xs ++ ys) = textOfItems xs ++ textOfItems ys := List.map_append

/-- R45: the item of an entry is the symbol of its digit. -/
theorem symbolOf_item {k : Nat} (h : k < 91) :
    SymbolOf ((BitVec.ofNat 8 (entry k)).setWidth 21) ⟨k, h⟩ := by
  rw [SymbolOf, BitVec.toNat_setWidth_of_le (by decide), BitVec.toNat_ofNat, entry_mod_item, ← entry_val]

/-- R51: the digits of a word's two symbols. -/
theorem digitsOf_pairSymbols {w : Nat} (h : w < 8192) :
    digitsOf (textOfItems (pairSymbols w)) = [w % 91, w / 91] := by
  have hlow : w % 91 < 91 := Nat.mod_lt _ (by decide)
  have hhigh : w / 91 < 91 := by omega
  rw [pairSymbols, textOfItems, List.map_cons, List.map_cons, List.map_nil,
    digitsOf_cons_of_symbol (symbolOf_item hlow), digitsOf_cons_of_symbol (symbolOf_item hhigh)]
  rfl

theorem digitsOf_pairSymbols_take_one {w : Nat} (h : w < 91) :
    digitsOf (textOfItems ((pairSymbols w).take 1)) = [w] := by
  rw [pairSymbols, Nat.mod_eq_of_lt h, List.take_succ_cons, List.take_zero, textOfItems, List.map_cons,
    List.map_nil, digitsOf_cons_of_symbol (symbolOf_item h)]
  rfl

/-- R82: the word of a pair comes back. -/
theorem digitStream_split {w : Nat} (h : w < 8192) (ds : List Nat) :
    digitStream (w % 91 :: w / 91 :: ds) = w + 2 ^ 13 * digitStream ds ∧
      digitBits (w % 91 :: w / 91 :: ds) = 13 + digitBits ds := by
  have hword := Nat.div_add_mod w 91
  have hpair := digitStream_of_kept (lo := w % 91) (hi := w / 91) (by omega) ds
  rwa [hword] at hpair

/-- R103, R114: the flush of `r` leftover bits decodes to the same bits, with at most six zeros above them. -/
theorem digitStream_leftoverSymbols {v r : Nat} (hr : r < 13) (hv : v < 2 ^ r) :
    digitStream (digitsOf (textOfItems (leftoverSymbols v r))) = v ∧
      r ≤ digitBits (digitsOf (textOfItems (leftoverSymbols v r))) ∧
      digitBits (digitsOf (textOfItems (leftoverSymbols v r))) ≤ r + 6 := by
  have hnoStream : digitStream [] = 0 := rfl
  have hnoBits : digitBits [] = 0 := rfl
  rcases Nat.eq_zero_or_pos r with rfl | hpos
  · rw [leftoverSymbols_zero]
    exact ⟨(Nat.lt_one_iff.mp hv).symm, le_rfl, by decide⟩
  rcases Nat.lt_or_ge 6 r with hlarge | hsix
  · have hw : v < 8192 := hv.trans_le (Nat.pow_le_pow_right (by decide) hr.le)
    obtain ⟨hstream, hbits⟩ := digitStream_split hw []
    rw [leftoverSymbols_of_seven_le hlarge, digitsOf_pairSymbols hw, hstream, hbits, hnoStream, hnoBits]
    omega
  · have hw : v < 64 := hv.trans_le (Nat.pow_le_pow_right (by decide) hsix)
    have hbits : digitBits [v] = 7 := rfl
    rw [leftoverSymbols_of_le_six hpos hsix, digitsOf_pairSymbols_take_one (by omega), hbits]
    exact ⟨rfl, by omega, by omega⟩

/-- R114: the symbols of a stream decode to the same stream, with at most six zeros above it. -/
theorem digitStream_bitSymbols {v n : Nat} (hv : v < 2 ^ n) :
    digitStream (digitsOf (textOfItems (bitSymbols v n))) = v ∧
      n ≤ digitBits (digitsOf (textOfItems (bitSymbols v n))) ∧
      digitBits (digitsOf (textOfItems (bitSymbols v n))) ≤ n + 6 := by
  induction n using Nat.strong_induction_on generalizing v with
  | h n ih =>
    rcases Nat.lt_or_ge n 13 with hlt | hge
    · rw [bitSymbols_of_lt hlt]
      exact digitStream_leftoverSymbols hlt hv
    · have hrest : v / 2 ^ 13 < 2 ^ (n - 13) :=
        Nat.div_lt_of_lt_mul (by rwa [← Nat.pow_add, Nat.add_sub_cancel' hge])
      obtain ⟨hstream, hle, hge'⟩ := ih (n - 13) (by omega) hrest
      have hword : v % 2 ^ 13 < 8192 := Nat.mod_lt _ (by decide)
      obtain ⟨hs, hb⟩ := digitStream_split hword
        (digitsOf (textOfItems (bitSymbols (v / 2 ^ 13) (n - 13))))
      rw [bitSymbols_of_le hge, textOfItems_append, digitsOf_append, digitsOf_pairSymbols hword,
        List.cons_append, List.cons_append, List.nil_append, hs, hb, hstream]
      exact ⟨Nat.mod_add_div v _, by omega, by omega⟩

theorem byteStream_lt (data : List Byte) : byteStream data < 2 ^ (8 * data.length) := by
  induction data with
  | nil => decide
  | cons n data ih =>
    have hn := n.isLt
    rw [byteStream, List.length_cons, Nat.mul_succ, Nat.add_comm (8 * _), Nat.pow_add]
    omega

/-- R50, R52: the bytes of the bytes' own stream. -/
theorem bitBytes_byteStream (data : List Byte) : bitBytes (byteStream data) (8 * data.length) = data := by
  induction data with
  | nil => rfl
  | cons n data ih =>
    have hn := n.isLt
    have hfirst : BitVec.ofNat 8 (byteStream (n :: data)) = n := by
      apply BitVec.eq_of_toNat_eq
      rw [BitVec.toNat_ofNat, byteStream]
      omega
    have hrest : byteStream (n :: data) / 2 ^ 8 = byteStream data := by
      rw [byteStream]
      omega
    rw [List.length_cons, Nat.mul_succ, bitBytes_of_le (Nat.le_add_left _ _), hfirst, hrest,
      Nat.add_sub_cancel, ih]

/-- R52: how many bytes a stream has depends on its whole bytes alone. -/
theorem bitBytes_congr {n m : Nat} (h : n / 8 = m / 8) (v : Nat) : bitBytes v n = bitBytes v m := by
  rw [bitBytes, bitBytes, h]

/-- Settles O52: the decoded stream is the encoded one (R50, R52), and the zeros above it make no further byte. -/
theorem sessionRoundTrip : Obligations.SessionRoundTrip := by
  intro s s' data hl hl'
  have hdecoded := programOutput_decodeSession hl'
    (textOfItems (bitSymbols (byteStream data) (8 * data.length)))
  obtain ⟨hstream, hle, hge⟩ := digitStream_bitSymbols (byteStream_lt data)
  rw [hstream, bitBytes_congr (m := 8 * data.length) (by omega), bitBytes_byteStream] at hdecoded
  exact ⟨_, encodeStreamIsLittleEndian s data hl, hdecoded⟩

end Sys2Proof.Machine

/-! The encoding of 30_encoding.md (R60 to R64, O4, O5, O6): a word that decodes is put together again from its opcode
and its operand, and the rows of the opcode table are the ranges of words with the same bits above the operand. -/

namespace Sys2Proof

/-! ## What the decoder has read -/

theorem decodeBare_eq_ok {i j : Instr} {arg : BitVec 21} (h : decodeBare i arg = .ok j) :
    arg = 0 ∧ i = j := by
  unfold decodeBare at h
  split at h
  · exact ⟨‹_›, Except.ok.inj h⟩
  · cases h

/-- R62, R63: an operand of `m` bits with zeros above it is the whole of `ARG`. -/
theorem setWidth_low_of_high_eq_zero {m n : Nat} (h : m + n = 21) {arg : BitVec 21}
    (hhigh : arg.extractLsb' m n = 0) : (arg.extractLsb' 0 m).setWidth 21 = arg := by
  rw [argHigh_eq_zero_iff h, Nat.div_eq_zero_iff_lt (by positivity)] at hhigh
  apply BitVec.eq_of_toNat_eq
  rw [BitVec.toNat_setWidth_of_le (by omega), BitVec.extractLsb'_toNat, Nat.shiftRight_zero,
    Nat.mod_eq_of_lt hhigh]

/-- R61 to R63: the operand check lets through a well-formed command of the opcode, with the whole `ARG` in its
operand. -/
theorem decodeOperand_eq_ok {op : Nat} {arg : BitVec 21} {i : Instr} (h : decodeOperand op arg = .ok i) :
    i.WellFormed ∧ i.opcode.toNat = op ∧ i.argument = arg := by
  unfold decodeOperand at h
  split at h
  case h_4 =>
    unfold decodeEncByte at h
    split at h
    · obtain rfl := Except.ok.inj h
      exact ⟨rfl, rfl, setWidth_low_of_high_eq_zero rfl ‹_›⟩
    · cases h
  case h_8 =>
    unfold decodeAlphaRd at h
    split at h
    · obtain ⟨hhigh, hidx⟩ := ‹_ ∧ _›
      obtain rfl := Except.ok.inj h
      exact ⟨decide_eq_true hidx, rfl, setWidth_low_of_high_eq_zero rfl hhigh⟩
    · cases h
  case h_6 | h_9 =>
    obtain rfl := Except.ok.inj h
    exact ⟨rfl, rfl, rfl⟩
  case h_10 => cases h
  all_goals
    obtain ⟨rfl, rfl⟩ := decodeBare_eq_ok h
    exact ⟨rfl, rfl, rfl⟩

/-- R60, R65: a word decodes only with zeros in `RSV`, and then as its operand check says. -/
theorem decode_eq_ok {w : PortWord} {i : Instr} (h : decode w = .ok i) :
    rsvField w = 0 ∧ decodeOperand (opField w).toNat (argField w) = .ok i := by
  unfold decode at h
  split at h
  · cases h
  · split at h
    · cases h
    · exact ⟨not_not.mp ‹_›, h⟩

/-- R60: the three fields are the whole word. -/
theorem toNat_eq_fields (w : PortWord) :
    w.toNat = (opField w).toNat * 2 ^ 28 + (rsvField w).toNat * 2 ^ 21 + (argField w).toNat := by
  rw [opField_toNat, rsvField_toNat, argField_toNat]
  omega

/-- R62, R64: a word that decodes is the word of the command it decodes to. -/
theorem encode_of_decode {w : PortWord} {i : Instr} (h : decode w = .ok i) : i.WellFormed ∧ encode i = w := by
  obtain ⟨hrsv, hoperand⟩ := decode_eq_ok h
  obtain ⟨hwf, hop, harg⟩ := decodeOperand_eq_ok hoperand
  refine ⟨hwf, BitVec.eq_of_toNat_eq ?_⟩
  have hword := toNat_eq_fields w
  rw [hrsv] at hword
  rw [encode_toNat, hop, harg, hword]
  simp

/-- R60, R65: a word with zeros in `RSV` and an operand that its opcode admits decodes to a command of that opcode. -/
theorem exists_decode_of_fields {w : PortWord} (hop : (opField w).toNat < 9) (hrsv : rsvField w = 0)
    (harg : ¬ ReservedArg (opField w).toNat (argField w).toNat) :
    ∃ i : Instr, i.opcode = opField w ∧ decode w = .ok i := by
  obtain ⟨i, -, hi, hdec⟩ := decodeOperand_of_not_reservedArg hop harg
  refine ⟨i, BitVec.eq_of_toNat_eq hi, ?_⟩
  rw [decode, if_neg (not_le.mpr hop), if_neg (not_not.mpr hrsv), hdec]

end Sys2Proof

namespace Sys2Proof.Machine

open Sys2Proof.Claims

/-- Settles O4: the fields that the decoder reads are the whole word. -/
theorem encodeOfDecode : Obligations.EncodeOfDecode := fun _ _ => encode_of_decode

/-- Settles O6: the decoder run on each of the twelve words. -/
theorem specWordsDecode : Obligations.SpecWordsDecode := by
  unfold Obligations.SpecWordsDecode
  decide

/-! ## The rows of the opcode table -/

/-- R62: how many low bits of a word with the opcode `op` are operand. -/
def operandWidth (op : BitVec 4) : Nat :=
  if op = 0x3#4 then 8 else if op = 0x5#4 ∨ op = 0x8#4 then 21 else if op = 0x7#4 then 7 else 0

/-- R61, R62: a row's mask leaves out the operand, and its match is the opcode. -/
theorem tableRow_eq (i : Instr) :
    tableRow i =
      (BitVec.allOnes 32 <<< operandWidth i.opcode, BitVec.ofNat 32 (i.opcode.toNat * 2 ^ 28)) := by
  cases i <;> simp only [tableRow, Instr.opcode] <;> decide

/-- Masking out the low `k` bits rounds down to a multiple of `2 ^ k`. -/
theorem and_shiftLeft_allOnes_toNat (w : PortWord) (k : Nat) :
    (w &&& (BitVec.allOnes 32 <<< k)).toNat = w.toNat / 2 ^ k * 2 ^ k := by
  have hshift : w &&& (BitVec.allOnes 32 <<< k) = (w >>> k) <<< k := by
    ext j hj
    by_cases hjk : j < k
    · simp [hjk]
    · simp [hjk, hj, show k + (j - k) = j by omega, -BitVec.reduceAllOnes]
  have hle := Nat.div_mul_le_self w.toNat (2 ^ k)
  rw [hshift, BitVec.toNat_shiftLeft, BitVec.toNat_ushiftRight, Nat.shiftRight_eq_div_pow,
    Nat.shiftLeft_eq, Nat.mod_eq_of_lt (hle.trans_lt w.isLt)]

/-- R61, R62, R132: the words of a row are those with its opcode whose operand the check lets through. -/
theorem fitsRow_iff {w : PortWord} {i : Instr} :
    FitsRow w i ↔ opField w = i.opcode ∧ rsvField w = 0 ∧
      ¬ ReservedArg i.opcode.toNat (argField w).toNat := by
  have hlt := w.isLt
  rw [FitsRow, tableRow_eq, ← BitVec.toNat_inj, ← BitVec.toNat_inj, ← BitVec.toNat_inj,
    ← BitVec.toNat_inj, and_shiftLeft_allOnes_toNat, opField_toNat, rsvField_toNat, argField_toNat]
  -- with the opcode a numeral, both sides are linear in the word's number
  cases i <;> simp [Instr.opcode, operandWidth, ReservedArg] <;> omega

/-- Settles O5: fitting a row is passing the decoder's checks for the row's opcode, and the rows of one opcode are
one. -/
theorem decodeMatchesOpcodeTable : Obligations.DecodeMatchesOpcodeTable := by
  refine ⟨fun w i hdec => fitsRow_iff.mpr ?_, fun w i hfits => ?_⟩
  · obtain ⟨hrsv, hoperand⟩ := decode_eq_ok hdec
    obtain ⟨-, hop, -⟩ := decodeOperand_eq_ok hoperand
    refine ⟨(BitVec.eq_of_toNat_eq hop).symm, hrsv, fun hbad => ?_⟩
    rw [← hop, decodeOperand_of_reservedArg hbad] at hoperand
    cases hoperand
  · obtain ⟨hop, hrsv, harg⟩ := fitsRow_iff.mp hfits
    rw [← hop] at harg
    have hlt : (opField w).toNat < 9 := hop ▸ i.opcode_toNat_lt
    obtain ⟨j, hj, hdec⟩ := exists_decode_of_fields hlt hrsv harg
    exact ⟨j, hdec, by rw [tableRow_eq, tableRow_eq, hj, hop]⟩

end Sys2Proof.Machine

/-! What every step keeps (O1, O17 to O19, O22, O23, O41 to O43): the frame of each command's effect, and steps
from states that differ only in the error flags and the response. -/

namespace Sys2Proof.Machine

open Sys2Proof.Claims

/-! ## Waiting, stopping and going on -/

/-- Settles O17: there is nothing to fetch. -/
theorem waitingHoldsState : Obligations.WaitingHoldsState := fun s h => by
  rw [step, fetch_nil h]

/-- Settles O19: reset leaves nothing pending. -/
theorem resetIsLegal : Obligations.ResetIsLegal := State.legal_of_empty rfl rfl rfl rfl

/-- Settles O1: the fetched word is decoded and run. -/
theorem stepRunsTheDecodedCommand : Obligations.StepRunsTheDecodedCommand := fun _ _ _ _ => step_of_ok

/-- R31: no command is taken in a state that breaks R28 or R29. -/
theorem exec_of_not_legal (i : Instr) {s : State} (h : ¬ s.Legal) : exec i s = .refused .unreachableState := by
  rw [exec_eq_perform, perform, whenLegal_of_not_legal h]

/-- Settles O23: a rejection and a command ask the same check of the state. -/
theorem unreachableStatesAreRefused : Obligations.UnreachableStatesAreRefused := by
  intro s w rest hl hhost
  have hl' : ¬ (s.withHost rest).Legal := hl
  cases hdec : decode w with
  | error e => rw [step_of_error hhost hdec, rejectWord, whenLegal_of_not_legal hl']
  | ok i => rw [step_of_ok hhost hdec, exec_of_not_legal i hl']

/-- R68: in a state of R28 and R29 every command has a next state. -/
theorem exec_continues (i : Instr) {s : State} (hl : s.Legal) : Continues (exec i s) := by
  cases hc : check i s with
  | none => exact ⟨_, (exec_eq_perform i s).trans (perform_of_check _ hl hc)⟩
  | some c => exact ⟨_, (exec_eq_perform i s).trans (perform_of_reject _ hl hc)⟩

/-- R68, R146: in a state of R28 and R29 every step has a next state. -/
theorem step_continues {s : State} (hl : s.Legal) : Continues (step s) := by
  match hhost : s.host with
  | [] => exact ⟨s, waitingHoldsState s hhost⟩
  | .reset :: rest => exact ⟨_, step_of_reset hhost⟩
  | .command w :: rest =>
    have hl' : (s.withHost rest).Legal := hl
    cases hdec : decode w with
    | error e => exact ⟨_, (step_of_error hhost hdec).trans (whenLegal_of_legal hl' _)⟩
    | ok i => exact (step_of_ok hhost hdec).symm ▸ exec_continues i hl'

/-- Settles O22: the bounds hold in every reachable state (O21), and are all that a step asks. -/
theorem reachableStepsContinue : Obligations.ReachableStepsContinue := fun _ h => step_continues h.legal

/-! ## What an effect leaves unchanged -/

theorem decDigitEffect_host (d : Digit) (s : State) : (decDigitEffect d s).state.host = s.host := by
  unfold decDigitEffect
  split
  · rfl
  · split <;> rfl

theorem decSymEffect_host (A : Alphabet) (cp : CodePoint) (s : State) :
    (decSymEffect A cp s).state.host = s.host := by
  unfold decSymEffect
  split
  · rfl
  · exact decDigitEffect_host _ s

/-- R21: no command reads or writes what the host does next. -/
theorem effectOf_host (i : Instr) (s : State) : (effectOf i s).state.host = s.host := by
  cases i with
  | decSym cp => exact decSymEffect_host Config.alpha cp s
  | nop | startEnc | startDec | encByte _ | encEnd | decEnd | alphaRd _ | revRd _ => rfl

/-- R20: the commands that write `MODE`. -/
theorem effectOf_mode {i : Instr} {s : State} (h : (effectOf i s).state.mode ≠ s.mode) :
    i = .startEnc ∨ i = .startDec ∨ i = .encEnd ∨ i = .decEnd := by
  cases i with
  | startEnc | startDec | encEnd | decEnd => simp
  | decSym cp => exact absurd (decSymEffect_mode Config.alpha cp s) h
  | nop | encByte _ | alphaRd _ | revRd _ => exact absurd rfl h

/-- R20: the commands that write `ACC` and `BCNT`. -/
theorem effectOf_accum {i : Instr} {s : State}
    (h : (effectOf i s).state.acc ≠ s.acc ∨ (effectOf i s).state.bcnt ≠ s.bcnt) :
    i = .startEnc ∨ i = .startDec ∨ i = .encEnd ∨ i = .decEnd ∨ (∃ n, i = .encByte n) ∨
      (∃ cp, i = .decSym cp) := by
  cases i with
  | startEnc | startDec | encEnd | decEnd | encByte _ | decSym _ => simp
  | nop | alphaRd _ | revRd _ => exact absurd h (by rintro (h | h) <;> exact h rfl)

/-- R20: the commands that write `LV` and `LVAL`. -/
theorem effectOf_pending {i : Instr} {s : State}
    (h : (effectOf i s).state.lv ≠ s.lv ∨ (effectOf i s).state.lval ≠ s.lval) :
    i = .startEnc ∨ i = .startDec ∨ i = .decEnd ∨ (∃ cp, i = .decSym cp) := by
  cases i with
  | startEnc | startDec | decEnd | decSym _ => simp
  | nop | encByte _ | encEnd | alphaRd _ | revRd _ => exact absurd h (by rintro (h | h) <;> exact h rfl)

/-- R26: the commands' effects keep each of the three flags. -/
theorem effectOf_flags (i : Instr) (s : State) :
    (effectOf i s).state.errIll = s.errIll ∧ (effectOf i s).state.errOpnd = s.errOpnd ∧
      (effectOf i s).state.errMode = s.errMode := by
  simpa only [State.errorFlags, Prod.mk.injEq] using effectOf_errorFlags i s

/-- R158: after every command `resp_valid` is high, and the host's queue is as it was. -/
theorem exec_ports {i : Instr} {s t : State} (h : exec i s = .next t) :
    t.respValid = true ∧ t.host = s.host := by
  obtain ⟨-, ⟨c, -, rfl⟩ | ⟨-, rfl⟩⟩ := exec_cases h
  · obtain ⟨-, -, -, -, -, hhost⟩ := reject_session c s
    exact ⟨rfl, hhost⟩
  · exact ⟨rfl, effectOf_host i s⟩

/-- Settles O43: a rejection writes a flag and answers `REJ`; a completed command writes what its effect writes. -/
theorem registersChangeOnlyByTheirCommands : Obligations.RegistersChangeOnlyByTheirCommands := by
  intro i s t h
  obtain ⟨hvalid, hhost⟩ := exec_ports h
  obtain ⟨-, ⟨c, -, rfl⟩ | ⟨-, rfl⟩⟩ := exec_cases h
  · obtain ⟨hm, ha, hb, hv, hz, -⟩ := reject_session c s
    exact ⟨fun h => absurd hm h, fun h => absurd ha (h.resolve_right (· hb)),
      fun h => absurd hv (h.resolve_right (· hz)), fun _ => respRejected_respWord _ _ _, hvalid, hhost⟩
  · obtain ⟨hill, hopnd, hmode⟩ := effectOf_flags i s
    refine ⟨effectOf_mode, effectOf_accum, effectOf_pending, ?_, hvalid, hhost⟩
    rintro (h | h | h)
    · exact absurd hill h
    · exact absurd hopnd h
    · exact absurd hmode h

/-- R21, R158: a step takes the offered word off the queue, and leaves `resp_valid` high. -/
theorem step_of_command {s : State} {w : PortWord} {rest : List HostAction} (hl : s.Legal)
    (hhost : s.host = .command w :: rest) :
    ∃ t, step s = .next t ∧ t.host = rest ∧ t.respValid = true := by
  have hl' : (s.withHost rest).Legal := hl
  cases hdec : decode w with
  | error e =>
    obtain ⟨-, -, -, -, -, hrest⟩ := reject_session (Cause.ofDecodeError e) (s.withHost rest)
    exact ⟨_, (step_of_error hhost hdec).trans (whenLegal_of_legal hl' _), hrest, rfl⟩
  | ok i =>
    obtain ⟨t, ht⟩ := exec_continues i hl'
    obtain ⟨hresp, hrest⟩ := exec_ports ht
    exact ⟨t, (step_of_ok hhost hdec).trans ht, hrest, hresp⟩

/-- Settles O18: fetching takes one action off the queue, and no command touches the rest of it. -/
theorem hostActionsAreTakenInOrder : Obligations.HostActionsAreTakenInOrder := by
  intro s act rest hl hhost
  cases act with
  | reset => exact ⟨_, step_of_reset hhost, rfl, fun _ => ⟨rfl, rfl⟩, nofun⟩
  | command w =>
    obtain ⟨t, ht, hrest, hresp⟩ := step_of_command hl hhost
    have hport : s.cmdPort = some w := by rw [State.cmdPort, hhost]
    refine ⟨t, ht, hrest, nofun, fun v hv => ?_⟩
    obtain rfl := HostAction.command.inj hv
    exact ⟨hport, by rw [State.cmdValid, hport]; rfl, by rw [State.rstPort, hhost], hresp⟩

/-! ## The error flags -/

/-- R26: every flag that is set in `s` is set in `t`. -/
def FlagsKept (s t : State) : Prop :=
  (s.errIll = true → t.errIll = true) ∧ (s.errOpnd = true → t.errOpnd = true) ∧
    (s.errMode = true → t.errMode = true)

/-- R131: a rejection sets a flag and clears none. -/
theorem reject_flagsKept (c : Cause) (s : State) : FlagsKept s (reject c s) := by
  simp +contextual [FlagsKept, reject]

theorem exec_flagsKept {i : Instr} {s t : State} (h : exec i s = .next t) : FlagsKept s t := by
  obtain ⟨-, ⟨c, -, rfl⟩ | ⟨-, rfl⟩⟩ := exec_cases h
  · exact reject_flagsKept c s
  · obtain ⟨hill, hopnd, hmode⟩ := effectOf_flags i s
    exact ⟨hill.trans, hopnd.trans, hmode.trans⟩

/-- Settles O41: of all that a step can do, only reset clears a flag. -/
theorem errorFlagsAreSticky : Obligations.ErrorFlagsAreSticky := by
  intro s t hrst h
  obtain ⟨-, rfl⟩ | ⟨rest, hhost, -⟩ | ⟨w, rest, e, -, -, -, rfl⟩ | ⟨w, rest, i, -, -, hexec⟩ :=
    step_cases h
  · exact ⟨id, id, id⟩
  · rw [State.rstPort, hhost] at hrst
    cases hrst
  · exact reject_flagsKept _ (s.withHost rest)
  · exact exec_flagsKept (s := s.withHost rest) hexec

/-! ## States that differ in the flags and the response -/

/-- R26, R27: the state with the error flags of `u` and its response on the port. -/
def State.withFlags (s u : State) : State :=
  { s with
    errIll := u.errIll
    errOpnd := u.errOpnd
    errMode := u.errMode
    respQ := u.respQ
    respValid := u.respValid }

theorem eq_withFlags_of_sameSession {s t : State} (h : SameSession s t) : t = s.withFlags t := by
  obtain ⟨hm, ha, hb, hv, hz, hh⟩ := h
  rw [State.withFlags, hm, ha, hb, hv, hz, hh]

theorem legal_iff_of_sameSession {s t : State} (h : SameSession s t) : s.Legal ↔ t.Legal := by
  obtain ⟨hm, ha, hb, hv, hz, -⟩ := h
  exact State.legal_congr hm ha hb hv hz

theorem decDigitEffect_withFlags (d : Digit) (s u : State) :
    decDigitEffect d (s.withFlags u) =
      ⟨(decDigitEffect d s).state.withFlags u, (decDigitEffect d s).out⟩ := by
  have hv : (s.withFlags u).lv = s.lv := rfl
  have hlval : (s.withFlags u).lval = s.lval := rfl
  unfold decDigitEffect
  rw [hv, hlval]
  split
  · rfl
  · cases combine s.lval.toNat d.val <;> rfl

/-- R26: no command's effect reads or writes the flags and the response. -/
theorem effectOf_withFlags (i : Instr) (s u : State) :
    effectOf i (s.withFlags u) = ⟨(effectOf i s).state.withFlags u, (effectOf i s).out⟩ := by
  cases i with
  | decSym cp =>
    simp only [effectOf, decSymEffect]
    cases symDigit Config.alpha cp with
    | none => rfl
    | some d => exact decDigitEffect_withFlags d s u
  | nop | startEnc | startDec | encByte _ | encEnd | decEnd | alphaRd _ | revRd _ => rfl

/-- R131: a rejection of the same cause gives the same response and keeps the session. -/
theorem reject_sameSession (c : Cause) {s s' : State} (h : SameSession s s') :
    SameSession (reject c s) (reject c s') := by
  obtain ⟨hm, ha, hb, hv, hz, hh⟩ := h
  simp [SameSession, reject, hm, ha, hb, hv, hz, hh]

/-- R26, R27: a command does the same in states that differ in the flags and the response. -/
theorem exec_sameSession {i : Instr} {s s' t : State} (h : SameSession s s') (ht : exec i s = .next t) :
    ∃ t', exec i s' = .next t' ∧ SameSession t t' ∧ t.respQ = t'.respQ := by
  obtain ⟨hl, hcases⟩ := exec_cases ht
  have hl' := (legal_iff_of_sameSession h).mp hl
  have hcheck : check i s' = check i s := by rw [eq_withFlags_of_sameSession h]; rfl
  rw [exec_eq_perform]
  obtain ⟨c, hc, rfl⟩ | ⟨hc, rfl⟩ := hcases
  · exact ⟨_, perform_of_reject _ hl' (hcheck.trans hc), reject_sameSession c h, rfl⟩
  · refine ⟨_, perform_of_check _ hl' (hcheck.trans hc), ?_⟩
    rw [eq_withFlags_of_sameSession h, effectOf_withFlags]
    exact ⟨⟨rfl, rfl, rfl, rfl, rfl, rfl⟩, rfl⟩

theorem sameSession_withHost {s t : State} (h : SameSession s t) (acts : List HostAction) :
    SameSession (s.withHost acts) (t.withHost acts) := by
  obtain ⟨hm, ha, hb, hv, hz, -⟩ := h
  exact ⟨hm, ha, hb, hv, hz, rfl⟩

/-- Settles O42: the word at the port and its check are the same, and the effect does not read the flags. -/
theorem flagsDoNotSteerExecution : Obligations.FlagsDoNotSteerExecution := by
  intro s s' t hsame h
  have hhost' : s'.host = s.host := by
    obtain ⟨-, -, -, -, -, hh⟩ := hsame
    exact hh.symm
  obtain ⟨hhost, rfl⟩ | ⟨rest, hhost, rfl⟩ | ⟨w, rest, e, hhost, hdec, hl, rfl⟩ |
    ⟨w, rest, i, hhost, hdec, hexec⟩ := step_cases h
  · refine ⟨s', waitingHoldsState s' (hhost'.trans hhost), hsame, fun hvalid => ?_⟩
    rw [State.cmdValid, State.cmdPort, hhost] at hvalid
    cases hvalid
  · exact ⟨_, step_of_reset (hhost'.trans hhost), ⟨rfl, rfl, rfl, rfl, rfl, rfl⟩, fun _ => rfl⟩
  · have hrest := sameSession_withHost hsame rest
    have hnext := whenLegal_of_legal ((legal_iff_of_sameSession hrest).mp hl)
    exact ⟨_, (step_of_error (hhost'.trans hhost) hdec).trans (hnext _), reject_sameSession _ hrest,
      fun _ => rfl⟩
  · obtain ⟨t', ht', hsess, hresp⟩ := exec_sameSession (sameSession_withHost hsame rest) hexec
    exact ⟨t', (step_of_ok (hhost'.trans hhost) hdec).trans ht', hsess, fun _ => hresp⟩

end Sys2Proof.Machine

/-! The datapath, the pinned entries and the response port (O27, O28, O31, O33, O38, O39). -/

namespace Sys2Proof.Machine

open Sys2Proof.Claims

/-! ## The accumulator and its loops -/

/-- Settles O27: at most 20 bits are within the accumulator's 21. -/
theorem insAppendsExactly : Obligations.InsAppendsExactly := by
  intro a v k hv ha hk
  have hk21 : a.count + k ≤ 21 := by omega
  exact ⟨Accum.ins_toNat hv ha hk21, Accum.ins_fits hv ha hk21, Accum.ins_count a v k⟩

/-- Settles O28: the low bits are the remainder, a shift is the quotient. -/
theorem extRemovesOldestBits : Obligations.ExtRemovesOldestBits := by
  intro a k hk
  refine ⟨Accum.low_toNat a k, Accum.drop_toNat a k, ?_⟩
  rw [Accum.drop_count, Nat.sub_add_cancel hk]

/-- Settles O31: at most 20 bits hold one word, and 13 to 20 bits one or two bytes; one round more finds too few. -/
theorem loopsRunAtMostTwice : Obligations.LoopsRunAtMostTwice := by
  refine fun s hl => ⟨fun hm n more => ?_, fun hm w more => ?_⟩
  · have hb := hl.bcnt_le_of_enc hm
    have hcount : (s.accum.ins (byteBits n) 8).count = s.bcnt.toNat + 8 := Accum.ins_count _ _ _
    have hrounds : drainWords (3 + more) (s.accum.ins (byteBits n) 8) =
        drainWords 1 (s.accum.ins (byteBits n) 8) := by
      rw [show 3 + more = 1 + (2 + more) by omega]
      exact drainWords_add_rounds (by omega) _
    have hlength := drainWords_length (3 + more) (s.accum.ins (byteBits n) 8)
    exact ⟨hrounds, by omega⟩
  · have hb := hl.bcnt_le_of_dec hm
    have hcount : (s.accum.ins (w.setWidth 21) 13).count = s.bcnt.toNat + 13 := Accum.ins_count _ _ _
    have hrounds : drainBytes (5 + more) (s.accum.ins (w.setWidth 21) 13) =
        drainBytes 2 (s.accum.ins (w.setWidth 21) 13) := by
      rw [show 5 + more = 2 + (3 + more) by omega]
      exact drainBytes_add_rounds (by omega) _
    have hlength := drainBytes_length (5 + more) (s.accum.ins (w.setWidth 21) 13)
    have hleft : (drainBytes (5 + more) (s.accum.ins (w.setWidth 21) 13)).2.count < 8 :=
      drainBytes_count_lt (by omega)
    exact ⟨hrounds, by omega, by omega⟩

/-! ## The pinned entries -/

/-- R42: a pinned entry is the same in every conforming alphabet, and the ROM reads it. -/
theorem pinned_reads (A : Alphabet) {i : Digit} {c : Code} (h : pinnedCode i = some c) :
    alphaRead A i = c ∧ A.code i = c :=
  ⟨(alphaRead_eq_code A i).trans (A.pinned i c h), A.pinned i c h⟩

/-- Settles O33: R42's table has the twenty-eight entries, and every alphabet has the table's. -/
theorem pinnedEntriesRead : Obligations.PinnedEntriesRead := by
  refine fun A i => ⟨fun h => ?_, fun h5 h30 => ?_, fun h => ?_⟩
  · exact pinned_reads A (if_pos h)
  · have hpinned : pinnedCode i = some (BitVec.ofNat 7 (0x7F - i.val)) := by
      rw [pinnedCode, if_neg (by omega), if_pos ⟨h5, h30⟩]
    obtain ⟨hread, hcode⟩ := pinned_reads A hpinned
    rw [hread, hcode, BitVec.toNat_ofNat]
    omega
  · exact pinned_reads A (by rw [pinnedCode, if_neg (by omega), if_neg (by omega), if_pos h])

/-! ## The response word -/

/-- R66: bits 31:21 are zero. -/
theorem respWord_toNat_lt (out : List Byte) (rej : Bool) (e : BitVec 2) :
    (respWord out rej e).toNat < 2 ^ 21 := by
  have hhigh : (respWord out rej e).extractLsb' 21 11 = 0 := by
    simp (disch := decide) only [respWord, BitVec.extractLsb'_append_eq_of_le, Nat.reduceSub,
      BitVec.extractLsb'_eq_self, BitVec.ofNat_eq_ofNat]
  have hzero : (respWord out rej e).toNat >>> 21 % 2 ^ 11 = 0 := congrArg BitVec.toNat hhigh
  have hlt := (respWord out rej e).isLt
  omega

/-- Settles O38: each field is a slice of the word, and `CNT` holds a length of at most two. -/
theorem responseLayout : Obligations.ResponseLayout := fun out rej e h =>
  ⟨respOut0_respWord out rej e, respOut1_respWord out rej e, respCount_respWord h rej e,
    respRejected_respWord out rej e, respCode_respWord out rej e, respWord_toNat_lt out rej e,
    respItems_respWord h rej e⟩

/-- R66: the response to an accepted command of at most two items. -/
theorem responseShape_of_accepted {out : List Byte} (h : out.length ≤ 2) :
    ResponseShape (respWord out false 0) := by
  rw [ResponseShape, respCount_respWord h, respOut0_respWord, respOut1_respWord, respRejected_respWord,
    respCode_respWord]
  refine ⟨respWord_toNat_lt out false 0, h, fun h0 => ?_, fun h2 => ?_, fun _ => rfl, nofun⟩
  · rw [List.getElem?_eq_none (by omega)]
    rfl
  · rw [List.getElem?_eq_none (by omega)]
    rfl

/-- R134: every cause has a code of its own, other than 0. -/
theorem Cause.code_ne_zero (c : Cause) : c.code ≠ 0 := by
  cases c <;> decide

/-- R66, R131: the response to a rejection. -/
theorem responseShape_of_rejected (c : Cause) : ResponseShape (respWord [] true c.code) := by
  rw [ResponseShape, respCount_respWord (by simp), respOut0_respWord, respOut1_respWord,
    respRejected_respWord, respCode_respWord]
  exact ⟨respWord_toNat_lt _ _ _, by simp, fun _ => rfl, fun _ => rfl, nofun,
    fun _ => ⟨rfl, c.code_ne_zero⟩⟩

theorem alphaRdEffect_out_length_le (A : Alphabet) (idx : BitVec 7) (s : State) :
    (alphaRdEffect A idx s).out.length ≤ 2 := by
  rw [alphaRdEffect]
  cases indexDigit idx <;> simp

/-- R66: a command emits at most two items. -/
theorem effectOf_out_length_le {i : Instr} {s : State} (hl : s.Legal) (hm : modeOK s.mode i = true) :
    (effectOf i s).out.length ≤ 2 := by
  cases i with
  | encByte n => exact encByteEffect_out_length_le _ n hl (of_decide_eq_true hm)
  | encEnd => exact flushSymbols_length_le _ s
  | decSym cp => exact decSymEffect_out_length_le _ cp hl (of_decide_eq_true hm)
  | decEnd => exact decEndEffect_out_length_le s
  | alphaRd idx => exact alphaRdEffect_out_length_le _ idx s
  | nop | startEnc | startDec | revRd _ => simp [effectOf, nopEffect, startEffect, revRdEffect]

theorem exec_responseShape {i : Instr} {s t : State} (h : exec i s = .next t) : ResponseShape t.respQ := by
  obtain ⟨hl, ⟨c, -, rfl⟩ | ⟨hc, rfl⟩⟩ := exec_cases h
  · exact responseShape_of_rejected c
  · obtain ⟨-, hm⟩ := check_eq_none.mp hc
    exact responseShape_of_accepted (effectOf_out_length_le hl hm)

/-- R66: every step leaves a response of the rule's shape on the port, or the one that was there. -/
theorem step_responseShape {s t : State} (hs : ResponseShape s.respQ) (h : step s = .next t) :
    ResponseShape t.respQ := by
  obtain ⟨-, rfl⟩ | ⟨rest, -, rfl⟩ | ⟨w, rest, e, -, -, -, rfl⟩ | ⟨w, rest, i, -, -, hexec⟩ :=
    step_cases h
  · exact hs
  · exact responseShape_of_accepted (out := []) (by simp)
  · exact responseShape_of_rejected _
  · exact exec_responseShape hexec

/-- Settles O39: the zero word of reset has the shape, and every step keeps it. -/
theorem reachableResponsesAreWellShaped : Obligations.ReachableResponsesAreWellShaped := by
  intro s h
  induction h with
  | reset => exact responseShape_of_accepted (out := []) (by simp)
  | queue s acts _ ih => exact ih
  | step s t _ hstep ih => exact step_responseShape ih hstep

end Sys2Proof.Machine

/-! The output of runs of words (R90, R156, O44, O54), and platforms of several blocks (R7, R143, O55). -/

namespace Sys2Proof.Machine

open Sys2Proof.Claims

/-! ## The output of a run, word by word -/

/-- R159: in a state of R28 and R29 the block takes every word, and keeps the bounds. -/
theorem issue_continues (w : PortWord) {s : State} (hl : s.Legal) :
    ∃ t, issue w s = .next t ∧ t.Legal := by
  have hl' : (s.withHost [.command w]).Legal := hl
  obtain ⟨t, ht⟩ := step_continues hl'
  exact ⟨t, ht, step_keeps_legal hl' ht⟩

/-- R90: a run's output is its first word's items, then the output of the rest. -/
theorem sessionOutput_cons {w : PortWord} {s t : State} (h : issue w s = .next t) (ws : List PortWord) :
    sessionOutput (w :: ws) s = (sessionOutput ws t).map (outputOf w t.respPort ++ ·) := by
  simp only [sessionOutput, runWords, h, Option.map_map]
  rfl

/-- R155: in a state of R28 and R29 every run completes. -/
theorem sessionOutput_total (ws : List PortWord) {s : State} (hl : s.Legal) :
    ∃ out, sessionOutput ws s = some out := by
  induction ws generalizing s with
  | nil => exact ⟨[], rfl⟩
  | cons w ws ih =>
    obtain ⟨t, ht, hlt⟩ := issue_continues w hl
    obtain ⟨out, hout⟩ := ih hlt
    exact ⟨_, by rw [sessionOutput_cons ht, hout, Option.map_some]⟩

/-! ## Words outside a session -/

/-- R90: the states hold the same session, whatever their hosts do next. -/
def SameRegisters (s t : State) : Prop := SameSession (s.withHost []) (t.withHost [])

theorem sameRegisters_of_sameSession {s t : State} (h : SameSession s t) : SameRegisters s t :=
  sameSession_withHost h []

/-- R26, R90: a word does the same in states that hold the same session. -/
theorem issue_sameRegisters {w : PortWord} {s s' t : State} (h : SameRegisters s s')
    (ht : issue w s = .next t) :
    ∃ t', issue w s' = .next t' ∧ SameRegisters t t' ∧ t.respPort = t'.respPort := by
  obtain ⟨t', ht', hsame, hresp⟩ :=
    flagsDoNotSteerExecution _ _ t (sameSession_withHost h [.command w]) ht
  exact ⟨t', ht', sameRegisters_of_sameSession hsame, hresp rfl⟩

/-- R26, R90: the output of a run is that of the session it starts in. -/
theorem sessionOutput_sameRegisters (ws : List PortWord) {s s' : State} (hl : s.Legal)
    (h : SameRegisters s s') : sessionOutput ws s = sessionOutput ws s' := by
  induction ws generalizing s s' with
  | nil => rfl
  | cons w ws ih =>
    obtain ⟨t, ht, hlt⟩ := issue_continues w hl
    obtain ⟨t', ht', hsame, hresp⟩ := issue_sameRegisters h ht
    rw [sessionOutput_cons ht, sessionOutput_cons ht', ih hlt hsame, hresp]

/-- R131: a rejection has no items. -/
theorem outputOf_rejected (w : PortWord) (c : Cause) : outputOf w (respWord [] true c.code) = [] := by
  unfold outputOf
  rw [respItems_respWord (by simp)]
  cases decode w <;> simp

theorem sameRegisters_reject (c : Cause) (s : State) : SameRegisters s (reject c (s.withHost [])) := by
  obtain ⟨hm, ha, hb, hv, hz, -⟩ := reject_session c (s.withHost [])
  exact ⟨hm.symm, ha.symm, hb.symm, hv.symm, hz.symm, rfl⟩

/-- R90: NOP and the ROM reads emit nothing into a session and write no register of it. -/
theorem effectOf_outside {i : Instr}
    (h : i = .nop ∨ (∃ idx, i = .alphaRd idx) ∨ ∃ cp, i = .revRd cp) (s : State) :
    isSessionData i = false ∧ (effectOf i s).state = s := by
  obtain rfl | ⟨idx, rfl⟩ | ⟨cp, rfl⟩ := h <;> exact ⟨rfl, rfl⟩

/-- R68, R132: all that a word can do: be no command and be rejected, or run the command it decodes to. -/
theorem issue_cases {w : PortWord} {s t : State} (h : issue w s = .next t) :
    (∃ e, decode w = .error e ∧ t = reject (Cause.ofDecodeError e) (s.withHost [])) ∨
      ∃ i, decode w = .ok i ∧ exec i (s.withHost []) = .next t := by
  have hhost : (s.withHost [.command w]).host = .command w :: [] := rfl
  rw [issue] at h
  cases hdec : decode w with
  | error e =>
    rw [step_of_error hhost hdec, rejectWord, whenLegal_eq_next] at h
    obtain ⟨-, rfl⟩ := h
    exact .inl ⟨e, rfl, rfl⟩
  | ok i => exact .inr ⟨i, rfl, (step_of_ok hhost hdec).symm.trans h⟩

/-- R90: a word that is rejected, or is NOP or a ROM read, has no items and keeps the session. -/
theorem issue_outsideSession {x : PortWord} {s u : State} (hout : OutsideSession x s)
    (h : issue x s = .next u) : SameRegisters s u ∧ outputOf x u.respPort = [] := by
  obtain ⟨e, -, rfl⟩ | ⟨i, hdec, hexec⟩ := issue_cases h
  · exact ⟨sameRegisters_reject _ s, outputOf_rejected x _⟩
  · obtain ⟨-, ⟨c, -, rfl⟩ | ⟨-, rfl⟩⟩ := exec_cases hexec
    · exact ⟨sameRegisters_reject c s, outputOf_rejected x c⟩
    · obtain hrej | hread := hout
      · have hrejected := hrej _ h
        rw [complete_respQ, respRejected_respWord] at hrejected
        cases hrejected
      · obtain ⟨hdata, hkeeps⟩ := effectOf_outside (i := i) (by simpa [hdec] using hread) (s.withHost [])
        rw [complete, hkeeps]
        exact ⟨⟨rfl, rfl, rfl, rfl, rfl, rfl⟩, by simp [outputOf, hdec, hdata]⟩

/-- Settles O44: the word `x` has no items and keeps the session, and the words after it see no more than that. -/
theorem wordsOutsideSessionsDoNotAffectOutput : Obligations.WordsOutsideSessionsDoNotAffectOutput := by
  intro s before after x hl hx
  induction before generalizing s with
  | nil =>
    obtain ⟨u, hu, hlu⟩ := issue_continues x hl
    obtain ⟨hsame, hitems⟩ := issue_outsideSession (hx [] s rfl) hu
    obtain ⟨out, hout⟩ := sessionOutput_total after hl
    refine ⟨out, ?_, hout⟩
    rw [List.nil_append, sessionOutput_cons hu, ← sessionOutput_sameRegisters after hl hsame, hout, hitems]
    rfl
  | cons w before ih =>
    obtain ⟨u, hu, hlu⟩ := issue_continues w hl
    have hx' (rs : List PortWord) (t : State) (hrun : runWords before u = some (rs, t)) :
        OutsideSession x t := hx (u.respPort :: rs) t (by rw [runWords, hu]; simp [hrun])
    obtain ⟨out, hwith, hwithout⟩ := ih u hlu hx'
    refine ⟨outputOf w u.respPort ++ out, ?_, ?_⟩
    · rw [List.cons_append, sessionOutput_cons hu, hwith, Option.map_some]
    · rw [List.cons_append, sessionOutput_cons hu, hwithout, Option.map_some]

/-! ## Sessions without their END -/

/-- R156: a run that stops early has the first part of the whole run's output. -/
theorem sessionOutput_prefix (ws more : List PortWord) {s : State} (hl : s.Legal) {out : List Byte}
    (h : sessionOutput (ws ++ more) s = some out) :
    ∃ out', sessionOutput ws s = some out' ∧ out' <+: out := by
  induction ws generalizing s out with
  | nil => exact ⟨[], rfl, List.nil_prefix⟩
  | cons w ws ih =>
    obtain ⟨t, ht, hlt⟩ := issue_continues w hl
    rw [List.cons_append, sessionOutput_cons ht, Option.map_eq_some_iff] at h
    obtain ⟨rest, hrest, rfl⟩ := h
    obtain ⟨out', hout', hprefix⟩ := ih hlt hrest
    exact ⟨_, by rw [sessionOutput_cons ht, hout', Option.map_some],
      (List.prefix_append_right_inj _).mpr hprefix⟩

theorem programOutput_prefix (prog more : List Instr) {s : State} (hl : s.Legal) {out : List Byte}
    (h : programOutput (prog ++ more) s = some out) :
    ∃ out', programOutput prog s = some out' ∧ out' <+: out := by
  rw [programOutput, List.map_append] at h
  exact sessionOutput_prefix _ _ hl h

/-- Settles O54: a session without its END is the start of the session, whose output is the source's (O46, O49). -/
theorem unendedSessionsArePrefixes : Obligations.UnendedSessionsArePrefixes := fun s hl =>
  ⟨fun data => programOutput_prefix (.startEnc :: encBytes data) [.encEnd] hl
      (encodeSessionIsSourceEncode s data hl),
    fun text => programOutput_prefix (.startDec :: decStr text) [.decEnd] hl
      (decodeSessionIsSourceDecode s text hl)⟩

/-! ## Several blocks -/

/-- R7: all that a platform's step can do: nothing where no block is, or one block's own step. -/
theorem stepInstance_cases {p q : Platform} {k : Nat} (h : stepInstance p k = .next q) :
    (p[k]? = none ∧ q = p) ∨ ∃ s t, p[k]? = some s ∧ step s = .next t ∧ q = p.set k t := by
  unfold stepInstance at h
  split at h
  · exact .inl ⟨‹_›, (Host.Outcome.next.inj h).symm⟩
  · split at h
    · exact .inr ⟨_, _, ‹_›, ‹_›, (Host.Outcome.next.inj h).symm⟩
    · cases h
    · cases h

theorem stepInstance_of_none {p : Platform} {k : Nat} (h : p[k]? = none) : stepInstance p k = .next p := by
  rw [stepInstance, h]

theorem stepInstance_of_step {p : Platform} {k : Nat} {s t : State} (h : p[k]? = some s)
    (hstep : step s = .next t) : stepInstance p k = .next (p.set k t) := by
  rw [stepInstance, h]
  simp only [hstep]

/-- R7, R143: a step of one block leaves the others alone. -/
theorem stepInstance_frame {p q : Platform} {j k : Nat} (hjk : j ≠ k) (h : stepInstance p k = .next q) :
    q[j]? = p[j]? := by
  obtain ⟨-, rfl⟩ | ⟨s, t, -, -, rfl⟩ := stepInstance_cases h
  · rfl
  · rw [List.getElem?_set_ne hjk.symm]

/-- R7, R57: steps of two blocks commute. -/
theorem stepInstance_comm {p q r : Platform} {j k : Nat} (hjk : j ≠ k) (hj : stepInstance p j = .next q)
    (hk : stepInstance q k = .next r) :
    ∃ q', stepInstance p k = .next q' ∧ stepInstance q' j = .next r := by
  have hsame := stepInstance_frame hjk.symm hj
  obtain ⟨hnone, rfl⟩ | ⟨s, t, hs, hstep, rfl⟩ := stepInstance_cases hk
  · exact ⟨p, stepInstance_of_none (hsame.symm.trans hnone), hj⟩
  · refine ⟨_, stepInstance_of_step (hsame.symm.trans hs) hstep, ?_⟩
    obtain ⟨hnone, rfl⟩ | ⟨s', t', hs', hstep', rfl⟩ := stepInstance_cases hj
    · exact stepInstance_of_none (by rw [List.getElem?_set_ne hjk.symm, hnone])
    · rw [List.set_comm _ _ hjk]
      exact stepInstance_of_step (by rw [List.getElem?_set_ne hjk.symm, hs']) hstep'

/-- Settles O55: a step writes the one entry of the platform's list that it reads. -/
theorem instancesAreIndependent : Obligations.InstancesAreIndependent := by
  refine ⟨fun p q k h => ⟨?_, fun j hj => stepInstance_frame hj h, fun s hs => ?_⟩,
    fun p q r j k => stepInstance_comm⟩
  · obtain ⟨-, rfl⟩ | ⟨s, t, -, -, rfl⟩ := stepInstance_cases h
    · rfl
    · exact List.length_set
  · obtain ⟨hnone, -⟩ | ⟨s', t, hs', hstep, rfl⟩ := stepInstance_cases h
    · cases hs.symm.trans hnone
    · obtain rfl := Option.some.inj (hs.symm.trans hs')
      obtain ⟨hlt, -⟩ := List.getElem?_eq_some_iff.mp hs
      exact ⟨t, hstep, List.getElem?_set_self hlt⟩

end Sys2Proof.Machine

/-! The assembler's lines with one decimal operand (R69, O56): the layout of a line falls away, and the digits are
read back as the number they were written from. -/

namespace Sys2Proof.Machine

open Sys2Proof.Claims

/-! ## Reading digits -/

/-- R69 (a): the value of a decimal digit character. -/
theorem digitValue_of_isDigit {c : Char} (h : c.isDigit = true) : digitValue c = some (c.toNat - 48) := by
  have hrange : '0' ≤ c ∧ c ≤ '9' := by simpa [Char.isDigit, Char.le_def] using h
  rw [digitValue, if_pos hrange]

/-- R69 (a): reading on a string of digits is the library's reading of them. -/
theorem readDigits_eq_ofDigitChars {cs : List Char} (h : ∀ c ∈ cs, c.isDigit = true) (acc : Nat) :
    readDigits 10 acc cs = some (Nat.ofDigitChars 10 cs acc) := by
  induction cs generalizing acc with
  | nil => rw [readDigits, Nat.ofDigitChars_nil]
  | cons c cs ih =>
    obtain ⟨hc, hcs⟩ := List.forall_mem_cons.mp h
    have hlt : c.toNat - 48 < 10 := by
      obtain ⟨-, hle⟩ := Char.isDigit_iff_toNat.mp hc
      have hnine : '9'.toNat = 57 := rfl
      omega
    rw [readDigits, digitValue_of_isDigit hc]
    simp only [if_pos hlt]
    rw [ih hcs, Nat.ofDigitChars_cons, Nat.mul_comm acc]
    rfl

/-- R69 (a): a number that starts with neither `0x` nor `0b` is decimal. -/
theorem readNumber_of_digits {cs : List Char} (h : ∀ c ∈ cs, c.isDigit = true) :
    readNumber cs = readDigits1 10 cs := by
  unfold readNumber
  split
  · cases h 'x' (by simp)
  · cases h 'b' (by simp)
  · rfl

theorem isDigit_of_mem_toDigits {n : Nat} : ∀ c ∈ Nat.toDigits 10 n, c.isDigit = true := fun _ =>
  Nat.isDigit_of_mem_toDigits (by decide) (by decide)

/-- R69 (a): the assembler reads a number back from its decimal digits. -/
theorem readNumber_toDigits (n : Nat) : readNumber (Nat.toDigits 10 n) = some n := by
  rw [readNumber_of_digits isDigit_of_mem_toDigits, readDigits1, if_neg (by simp),
    readDigits_eq_ofDigitChars isDigit_of_mem_toDigits, Nat.ofDigitChars_ten_toDigits]

/-- R69 (b): digits without quotes are a number. -/
theorem readCodePoint_toDigits (n : Nat) : readCodePoint (Nat.toDigits 10 n) = some n := by
  have hquote : readQuoted (Nat.toDigits 10 n) = none := by
    unfold readQuoted
    split
    · rename_i cs hcs
      cases isDigit_of_mem_toDigits (n := n) _ (hcs ▸ List.mem_cons_self)
    · rfl
  rw [readCodePoint, hquote]
  exact readNumber_toDigits n

/-! ## The layout of a line -/

/-- A character that neither separates words (log entry 13) nor is the quote 0x22 or the semicolon 0x3B. -/
def isPlain (c : Char) : Bool := !isBlank c && c.toNat != 0x22 && c.toNat != 0x3B

theorem isPlain_iff {c : Char} :
    isPlain c = true ↔ isBlank c = false ∧ c.toNat ≠ 0x22 ∧ c.toNat ≠ 0x3B := by
  simp [isPlain, and_assoc]

theorem isPlain_of_isDigit {c : Char} (h : c.isDigit = true) : isPlain c = true := by
  obtain ⟨hle, hge⟩ := Char.isDigit_iff_toNat.mp h
  have hzero : '0'.toNat = 0x30 := rfl
  have hnine : '9'.toNat = 0x39 := rfl
  have hblank : isBlank c = false := by
    have hne (d : Char) (hd : d.isDigit = false) : c ≠ d := fun hcd => by simp [← hcd, h] at hd
    simp [isBlank, hne ' ' rfl, hne '\t' rfl]
  exact isPlain_iff.mpr ⟨hblank, by omega, by omega⟩

theorem isPlain_spelling (m : Mnemonic) : ∀ c ∈ spelling m, isPlain c = true :=
  List.all_eq_true.mp (by cases m <;> decide)

theorem isBlank_of_isPlain {c : Char} (h : isPlain c = true) : isBlank c = false := by
  obtain ⟨hblank, -, -⟩ := isPlain_iff.mp h
  exact hblank

/-- R69 (e): a line without a quote and a semicolon has no comment. -/
theorem stripComment_eq_self {cs : List Char} (h : ∀ c ∈ cs, c.toNat ≠ 0x22 ∧ c.toNat ≠ 0x3B) :
    stripComment false cs = cs := by
  induction cs with
  | nil => rfl
  | cons c cs ih =>
    obtain ⟨⟨hquote, hsemi⟩, hcs⟩ := List.forall_mem_cons.mp h
    rw [stripComment, if_neg fun h => hquote (congrArg Char.toNat h),
      if_neg fun ⟨h, _⟩ => hsemi (congrArg Char.toNat h), ih hcs]
    nofun

/-- Between words that stand at both ends nothing is trimmed. -/
theorem trimBlanks_eq_self {cs : List Char} (hne : cs ≠ []) (hhead : isBlank (cs.head hne) = false)
    (hlast : isBlank (cs.getLast hne) = false) : trimBlanks cs = cs := by
  have hdrop {ds : List Char} (hds : ds ≠ []) (h : isBlank (ds.head hds) = false) :
      ds.dropWhile isBlank = ds :=
    List.dropWhile_eq_self_iff.mpr fun _ => by simpa [List.head_eq_getElem] using h
  rw [trimBlanks, hdrop hne hhead, hdrop (by simpa using hne) (by simpa using hlast), List.reverse_reverse]

/-- R61, R69, R70: no two mnemonics have one spelling. -/
theorem find?_spelling (m : Mnemonic) :
    (mnemonics.find? fun m' => spelling m' == spelling m) = some m := by
  cases m <;> decide

/-- R69 (e): a mnemonic, a blank and plain characters are no comment. -/
theorem stripComment_line (m : Mnemonic) {operand : List Char} (hplain : ∀ c ∈ operand, isPlain c = true) :
    stripComment false (spelling m ++ ' ' :: operand) = spelling m ++ ' ' :: operand := by
  have hsafe {c : Char} (h : isPlain c = true) : c.toNat ≠ 0x22 ∧ c.toNat ≠ 0x3B := by
    obtain ⟨-, hquote, hsemi⟩ := isPlain_iff.mp h
    exact ⟨hquote, hsemi⟩
  refine stripComment_eq_self (List.forall_mem_append.mpr
    ⟨fun c hc => hsafe (isPlain_spelling m c hc), List.forall_mem_cons.mpr ⟨by decide, fun c hc => ?_⟩⟩)
  exact hsafe (hplain c hc)

/-- R69: a mnemonic, a blank and an operand of plain characters are taken apart. -/
theorem assembleLine_of_operand (m : Mnemonic) {operand : List Char} (hne : operand ≠ [])
    (hplain : ∀ c ∈ operand, isPlain c = true) :
    assembleLine (spelling m ++ ' ' :: operand) = assembleOperand m operand := by
  have hwordne : spelling m ≠ [] := by cases m <;> simp [spelling]
  have hword : ∀ c ∈ spelling m, isBlank c = false := fun c hc =>
    isBlank_of_isPlain (isPlain_spelling m c hc)
  have hend : ∀ c ∈ operand, isBlank c = false := fun c hc => isBlank_of_isPlain (hplain c hc)
  have hbody : trimBlanks (spelling m ++ ' ' :: operand) = spelling m ++ ' ' :: operand := by
    refine trimBlanks_eq_self (by simp) ?_ ?_
    · rw [List.head_append_of_ne_nil hwordne]
      exact hword _ (List.head_mem _)
    · rw [List.getLast_append_of_ne_nil _ (by simp), List.getLast_cons hne]
      exact hend _ (List.getLast_mem _)
  have hoperand : trimBlanks (' ' :: operand) = operand :=
    trimBlanks_eq_self hne (hend _ (List.head_mem _)) (hend _ (List.getLast_mem _))
  have htake : (spelling m ++ ' ' :: operand).takeWhile (! isBlank ·) = spelling m := by
    rw [List.takeWhile_append_of_pos (by simpa using hword)]
    exact List.append_nil _
  have hdrop : (spelling m ++ ' ' :: operand).dropWhile (! isBlank ·) = ' ' :: operand := by
    rw [List.dropWhile_append_of_pos (by simpa using hword)]
    rfl
  rw [assembleLine, stripComment_line m hplain, hbody]
  simp only [htake, hdrop, hoperand, find?_spelling]
  exact if_neg (by simp)

/-! ## Operands in range -/

/-- R69: what a command makes of a number that its operand is read as. -/
theorem inRange_map {v : Option Nat} {n max : Nat} (hv : v = some n) (f : Nat → List PortWord) :
    (inRange max v).map f = if n ≤ max then .ok (f n) else .error .operandOutOfRange := by
  rw [hv, inRange]
  split <;> rfl

/-- Settles O56: the line's operand is the number itself, and the command's range decides. -/
theorem assemblerTakesOperandsWhole : Obligations.AssemblerTakesOperandsWhole := by
  intro n
  have hne : Nat.toDigits 10 n ≠ [] := Nat.toDigits_ne_nil
  have hline (m : Mnemonic) : assembleLine (numberLine m n) = assembleOperand m (Nat.toDigits 10 n) :=
    assembleLine_of_operand m hne fun c hc => isPlain_of_isDigit (isDigit_of_mem_toDigits c hc)
  have hoperand (f : List Char → Except AsmError (List PortWord)) :
      withOperand (Nat.toDigits 10 n) f = f (Nat.toDigits 10 n) := if_neg (by simp)
  have hnumber := readNumber_toDigits n
  have hcp := readCodePoint_toDigits n
  refine ⟨?_, ?_, ?_, ?_⟩ <;> rw [hline, assembleOperand, hoperand]
  · exact inRange_map hnumber _
  · exact inRange_map hcp _
  · exact inRange_map hnumber _
  · exact inRange_map hcp _

end Sys2Proof.Machine
